-- ==== Sys2Proof/Word.lean ====
section
/-! DEFINITION. The word types of the Aqryn 640 (R6, R7) and the one shape of every sparse collection of the state. -/

namespace Sys2Proof

/-- A byte of memory or scratchpad. -/
abbrev Byte := BitVec 8
/-- A 32-bit word: an instruction word or one lane of a vector register (R6, R12). -/
abbrev Word := BitVec 32
/-- A 64-bit scalar register, address or system register (R6). -/
abbrev DWord := BitVec 64
/-- The number of a register in a 6-bit field (R17, R19). -/
abbrev Reg := BitVec 6

/-- A sparse collection by key. Its canonical form (`Tab.wf`) has strictly rising keys and no entry
equal to what an unlisted key reads as. Memory is a `Tab Byte`, that is, a list of `Host.Cell`. -/
abbrev Tab (α : Type) := List (Nat × α)

end Sys2Proof
end

