-- ==== Sys2Proof/Config.lean ====
section
/-! DEFINITION. What a part fixes and the spec does not publish, and the free values. Nothing here has a body: no
proof can see a value of it, so a statement that holds, holds for every value. -/

namespace Sys2Proof

/-- Free values by serial number: the state's counter `free` gives each use its own (log 2). -/
opaque Config.freeBits : Nat → BitVec 64
/-- Free bytes by serial number (peer memory contents, R322, log 10). -/
opaque Config.freeByte : Nat → Byte
/-- The PHASE an AWAIT reads in a poisoned word, by the state's counter `free` and the word's number in the core's
scratchpad or in the evicted allocation (log 29). -/
opaque Config.poisonPhase : (serial word : Nat) → Bool
/-- The home slice 0 to 31 of a line within its die (R368: fixed for a part, not published; log 12). -/
opaque Config.homeSlice : (tier line : Nat) → BitVec 5
/-- The home die of a capacity-tier or host-tier line (R368; log 12). -/
opaque Config.homeDie : (tier line : Nat) → BitVec 2
/-- The silicon stepping in the ID register (R320). -/
opaque Config.stepping : Byte
/-- The fused hash of the firmware key, 256 bits (R325). -/
opaque Config.fusedKeyHash : BitVec 256
/-- The fused minimum firmware version (R325). -/
opaque Config.fusedMinVersion : Nat
/-- SHAKE256 of a byte string taken to 256 bits (R325; given by FIPS 202, outside this spec; log 9). -/
opaque Config.shake256 : List Byte → BitVec 256
/-- SLH-DSA-SHAKE-256s verification: key, message, signature (R325; FIPS 205, outside this spec; log 9). -/
opaque Config.slhVerify : List Byte → List Byte → List Byte → Bool
/-- The bytes of a firmware image's header: key, version and length, whose layout R325 does not give (log 9). -/
opaque Config.fwHeader : (key : List Byte) → (version length : Nat) → List Byte
/-- SHAKE256 of a byte string taken to 512 bits (R326; log 9). -/
opaque Config.shake512 : List Byte → BitVec 512
/-- The bytes of the boot ROM, and those of the fuses (R326; log 9). -/
opaque Config.romBytes : List Byte
opaque Config.fuseBytes : List Byte
/-- SLH-DSA-SHAKE-256s signing of a message with the device key: the signature's bytes by place (R326; log 9). -/
opaque Config.slhSign : (message : List Byte) → (place : Nat) → Byte
/-- What decoding an AV1 frame gives beyond the bits that `Machine/Av1.lean` reads (R76; the decoding process is the AV1
specification's, outside this spec): the OBUs decoded up to the frame's end, the serial of the references they are decoded
under, and which of the frame's values is asked for, by the numbers of that file (log 8). -/
opaque Config.av1 : (obus : List (List Byte)) → (serial : Nat) → Nat → Nat

end Sys2Proof
end

