-- ==== Sys2Proof/Syntax.lean ====
section
/-! DEFINITION. The instructions and steps of the Aqryn 640: one constructor of `Instr` for each row of
spec/opcode_table.json. A row that no word encodes (a step of another agent or of the host, spec/95) is a constructor
whose arguments say which agent moves and what comes from outside. -/

namespace Sys2Proof

/-- The form of a W or E word (R17, R18): W, E with L = 0, E with L = 1. -/
inductive Form where | w | e0 | eL
deriving DecidableEq, Repr

/-- The crossbar pattern of a vector operand field with its parameter P (R19). -/
inductive Pat where
  | ident | rot (p : BitVec 6) | bc (p : BitVec 6) | bfly (p : BitVec 6) | mir (p : BitVec 6)
deriving DecidableEq, Repr

/-- An operand field (R19): a vector register through a pattern, a scalar register, an IMM10 of twelve bits, or the
literal of the third word. -/
inductive Src where
  | vec (r : Reg) (p : Pat) | sca (r : Reg) | imm (v : BitVec 12) | lit (v : Word)
deriving DecidableEq, Repr

/-- The all-zero field (R19): identity on v0, and what an unused field holds (R23). -/
abbrev Src.zero : Src := .vec 0 .ident

/-- The fields every W or E word has (R17, R18). `c` is field C of an E word with L = 0. -/
structure Ops where
  form : Form
  s : Bool
  u : Bool
  d : Reg
  a : Src
  b : Src
  c : Src
deriving DecidableEq, Repr

/-- The fields of a C-form word (R15). -/
structure COps where
  s : Bool
  u : Bool
  d : Reg
  a : Reg
  b : Reg
deriving DecidableEq, Repr

/-- Float element types, MOD 1:0 (R167). -/
inductive FTy where | f32 | f16x2 | bf16x2
deriving DecidableEq, Repr
/-- Key types, MOD 1:0 (R167). -/
inductive KeyTy where | i32 | u32 | f32
deriving DecidableEq, Repr
/-- CVT format codes 0 to 11 (R58). -/
inductive Fmt where | f32 | f16 | bf16 | f16x2 | bf16x2 | e4m3 | e5m2 | i32 | u32 | i8 | u8 | i4
deriving DecidableEq, Repr
/-- Rounding modes in RM's order (R55). -/
inductive RM where | rne | rtz | rup | rdn
deriving DecidableEq, Repr
/-- Mantissa codes of R47: m = 2 to 8, or 16 for code 15. -/
inductive MCode where | m2 | m3 | m4 | m5 | m6 | m7 | m8 | m16
deriving DecidableEq, Repr
/-- VSCAN operations (R187). -/
inductive ScanOp where | add | max | min | fadd | fmax | fmin
deriving DecidableEq, Repr
/-- Access widths (R109, R227). For stores `u8` and `u16` are `.8` and `.16`. -/
inductive Width where | w32 | w64 | u8 | s8 | u16 | s16 | s32
deriving DecidableEq, Repr
/-- Memory orders (R228). -/
inductive Order where | relaxed | acq | rel | ar
deriving DecidableEq, Repr
/-- Scopes (R212, R228). -/
inductive Scope where | warp | group | die | device | system
deriving DecidableEq, Repr
/-- Order and scope of an access: MOD2 4:0 (R228). -/
structure Sync where
  order : Order
  scope : Scope
deriving DecidableEq, Repr
/-- FENCE kinds, MOD 1:0 (R228). -/
inductive FenceKind where | sc | acq | rel | ar
deriving DecidableEq, Repr
/-- The index modifiers of a global address: IXS and SCALE (R227). -/
structure GAddr where
  ixs : Bool
  scale : BitVec 2
deriving DecidableEq, Repr
/-- Atomic operations, codes 0 to 12 (R111, R235). -/
inductive AOp where | add | and | or | xor | min | max | minu | maxu | xchg | cas | fadd | fmin | fmax
deriving DecidableEq, Repr
/-- BULK operations, codes 0 to 9 (R114). -/
inductive BulkOp where | add | max | min | fadd | fmax | fmin | fmul | fma | xms | fill
deriving DecidableEq, Repr
/-- SET.XCARD operations (R140). -/
inductive XOp where | inter | union | diff
deriving DecidableEq, Repr
/-- SET.EST quantities (R149). -/
inductive EstQ where | rd | wr | clk
deriving DecidableEq, Repr
/-- SET.EST commands, MOD 2:0 (R149). -/
inductive EstCmd where | union | inter | diff | copy | export_ | xinter | xunion | xdiff
deriving DecidableEq, Repr
/-- System registers 0x00 to 0x07 (R312). -/
inductive SysReg where | fmode | clk | tvb | tpc | texec | wloc | cerr | tqd
deriving DecidableEq, Repr
/-- The bank starts a clock that the thermal controller may set (R103). -/
inductive BankStarts where | b64 | b32 | b16 | b8
deriving DecidableEq, Repr
/-- What enters freeze (R305, R327). -/
inductive FreezeCause where | command | fatal | junction
deriving DecidableEq, Repr
/-- A firmware image as read from a boot target (R325). -/
structure FwImage where
  key : List Byte
  version : Nat
  body : List Byte
  signature : List Byte
deriving DecidableEq, Repr

/-- The instructions and steps: one constructor per row of spec/opcode_table.json. Arguments named `k` are warp keys
(workgroup number times 32 plus warp number); `wg` is a workgroup number, `core` 64 times die plus core, `ctx` a
context, `q` a queue. -/
inductive Instr where
  /-- NOP_C_FORM (R272). C form of NOP: the instruction has no effect. -/
  | nopC (f : COps)
  /-- NOP (R272). W or E form of NOP: the instruction has no effect. -/
  | nop (f : Ops)
  /-- EXIT_C_FORM (R272). C form of EXIT: ends the warp for good and counts it as arrived in every cohort it belongs to. -/
  | exitC (f : COps)
  /-- EXIT (R272). W or E form of EXIT: ends the warp for good. -/
  | exit (f : Ops)
  /-- JMP (R261). Sets PC to a PC-relative or absolute target. -/
  | jmp (f : Ops)
  /-- CALL (R261). Writes the next PC to a link register and jumps to the target. -/
  | call (f : Ops)
  /-- CALLI_C_FORM (R261). C form of CALLI: reads the target from a scalar, writes the link and jumps. -/
  | calliC (f : COps)
  /-- CALLI (R261). W or E form of CALLI: indirect call through a scalar register. -/
  | calli (f : Ops)
  /-- RET_C_FORM (R261). C form of RET: sets PC from a scalar register. -/
  | retC (f : COps)
  /-- RET (R261). W or E form of RET: sets PC from a scalar register. -/
  | ret (f : Ops)
  /-- BR (R261). Branches to the target when the condition operand is non-zero. -/
  | br (f : Ops)
  /-- BR_ANY (R261). Branches when the condition AND exec is non-zero. -/
  | brAny (f : Ops)
  /-- BR_ALL (R261). Branches when every exec lane is set in the condition. -/
  | brAll (f : Ops)
  /-- BR_NONE (R261). Branches when the condition AND exec is zero. -/
  | brNone (f : Ops)
  /-- BAR (R262). Arrives at a cohort with a payload contribution and blocks until the phase completes. -/
  | bar (f : Ops) (cohort : BitVec 4)
  /-- AWAIT (R264). Checks the object offset and phase operand, then blocks until the object's PHASE differs from the operand. -/
  | await (f : Ops)
  /-- BWAIT (R265). Blocks until a workgroup's bit of a completion bitmap is set. -/
  | bwait (f : Ops)
  /-- LAUNCH (R269). Checks a launch record and pushes a child grid into the workgroup's pending-launch queue, blocking while it is full. -/
  | launch (f : Ops)
  /-- LAUNCH_PUSH (R269). A LAUNCH that waited on a full queue enters the queue when an entry frees and increments the completion counter. -/
  | launchPush (k : Nat)
  /-- JOIN (R266). Blocks until a signed 64-bit completion counter reads 0 or less, then acquires the decrements. -/
  | join (f : Ops)
  /-- YIELD_C_FORM (R272). C form of YIELD: marks the warp yielded for the next arbitration of its slot. -/
  | yieldC (f : COps)
  /-- YIELD (R272). W or E form of YIELD. -/
  | yield (f : Ops)
  /-- SLEEP_C_FORM (R272). C form of SLEEP: makes the warp not ready for a number of clocks, capped at 2^24. -/
  | sleepC (f : COps)
  /-- SLEEP (R272). W or E form of SLEEP. -/
  | sleep (f : Ops)
  /-- SLEEP_EXPIRE (R272). A sleeping warp's sleep count expires and the warp becomes ready again. -/
  | sleepExpire (k : Nat)
  /-- SADD_C_FORM (R169). C form of SADD: 64-bit scalar add. -/
  | saddC (f : COps)
  /-- SADD (R169). W or E form of SADD. -/
  | sadd (f : Ops)
  /-- SSUB_C_FORM (R169). C form of SSUB: 64-bit scalar subtract. -/
  | ssubC (f : COps)
  /-- SSUB (R169). W or E form of SSUB. -/
  | ssub (f : Ops)
  /-- SMUL_C_FORM (R169). C form of SMUL: low 64 bits of a scalar product. -/
  | smulC (f : COps)
  /-- SMUL (R169). W or E form of SMUL. -/
  | smul (f : Ops)
  /-- SMULH_C_FORM (R169). C form of SMULH: high 64 bits of the signed product. -/
  | smulhC (f : COps)
  /-- SMULH (R169). W or E form of SMULH. -/
  | smulh (f : Ops)
  /-- SMULHU (R169). High 64 bits of the unsigned scalar product. -/
  | smulhu (f : Ops)
  /-- SAND_C_FORM (R169). C form of SAND: scalar bitwise AND. -/
  | sandC (f : COps)
  /-- SAND (R169). W or E form of SAND. -/
  | sand (f : Ops)
  /-- SOR_C_FORM (R169). C form of SOR: scalar bitwise OR. -/
  | sorC (f : COps)
  /-- SOR (R169). W or E form of SOR. -/
  | sor (f : Ops)
  /-- SXOR_C_FORM (R169). C form of SXOR: scalar bitwise XOR. -/
  | sxorC (f : COps)
  /-- SXOR (R169). W or E form of SXOR. -/
  | sxor (f : Ops)
  /-- SANDN_C_FORM (R169). C form of SANDN: a AND NOT b. -/
  | sandnC (f : COps)
  /-- SANDN (R169). W or E form of SANDN. -/
  | sandn (f : Ops)
  /-- SSHL_C_FORM (R169). C form of SSHL: scalar shift left by b mod 64. -/
  | sshlC (f : COps)
  /-- SSHL (R169). W or E form of SSHL. -/
  | sshl (f : Ops)
  /-- SSHR_C_FORM (R169). C form of SSHR: scalar logical shift right. -/
  | sshrC (f : COps)
  /-- SSHR (R169). W or E form of SSHR. -/
  | sshr (f : Ops)
  /-- SSRA_C_FORM (R169). C form of SSRA: scalar arithmetic shift right. -/
  | ssraC (f : COps)
  /-- SSRA (R169). W or E form of SSRA. -/
  | ssra (f : Ops)
  /-- SROT_C_FORM (R169). C form of SROT: scalar rotate left. -/
  | srotC (f : COps)
  /-- SROT (R169). W or E form of SROT. -/
  | srot (f : Ops)
  /-- SMIN_C_FORM (R169). C form of SMIN: signed scalar minimum. -/
  | sminC (f : COps)
  /-- SMIN (R169). W or E form of SMIN. -/
  | smin (f : Ops)
  /-- SMAX_C_FORM (R169). C form of SMAX: signed scalar maximum. -/
  | smaxC (f : COps)
  /-- SMAX (R169). W or E form of SMAX. -/
  | smax (f : Ops)
  /-- SMINU_C_FORM (R169). C form of SMINU: unsigned scalar minimum. -/
  | sminuC (f : COps)
  /-- SMINU (R169). W or E form of SMINU. -/
  | sminu (f : Ops)
  /-- SMAXU_C_FORM (R169). C form of SMAXU: unsigned scalar maximum. -/
  | smaxuC (f : COps)
  /-- SMAXU (R169). W or E form of SMAXU. -/
  | smaxu (f : Ops)
  /-- SDIV_C_FORM (R170). C form of SDIV: signed scalar quotient that never traps. -/
  | sdivC (f : COps)
  /-- SDIV (R170). W or E form of SDIV. -/
  | sdiv (f : Ops)
  /-- SDIVU_C_FORM (R170). C form of SDIVU: unsigned scalar quotient. -/
  | sdivuC (f : COps)
  /-- SDIVU (R170). W or E form of SDIVU. -/
  | sdivu (f : Ops)
  /-- SREM_C_FORM (R170). C form of SREM: signed scalar remainder. -/
  | sremC (f : COps)
  /-- SREM (R170). W or E form of SREM. -/
  | srem (f : Ops)
  /-- SREMU_C_FORM (R170). C form of SREMU: unsigned scalar remainder. -/
  | sremuC (f : COps)
  /-- SREMU (R170). W or E form of SREMU. -/
  | sremu (f : Ops)
  /-- SCMPEQ_C_FORM (R169). C form of SCMPEQ: writes 1 if the scalars are equal. -/
  | scmpeqC (f : COps)
  /-- SCMPEQ (R169). W or E form of SCMPEQ. -/
  | scmpeq (f : Ops)
  /-- SCMPNE_C_FORM (R169). C form of SCMPNE. -/
  | scmpneC (f : COps)
  /-- SCMPNE (R169). W or E form of SCMPNE. -/
  | scmpne (f : Ops)
  /-- SCMPLT_C_FORM (R169). C form of SCMPLT: signed less-than. -/
  | scmpltC (f : COps)
  /-- SCMPLT (R169). W or E form of SCMPLT. -/
  | scmplt (f : Ops)
  /-- SCMPLTU_C_FORM (R169). C form of SCMPLTU: unsigned less-than. -/
  | scmpltuC (f : COps)
  /-- SCMPLTU (R169). W or E form of SCMPLTU. -/
  | scmpltu (f : Ops)
  /-- SCMPLE (R169). Signed less-or-equal scalar compare. -/
  | scmple (f : Ops)
  /-- SCMPLEU (R169). Unsigned less-or-equal scalar compare. -/
  | scmpleu (f : Ops)
  /-- SMOV_C_FORM (R169). C form of SMOV: copies a scalar. -/
  | smovC (f : COps)
  /-- SMOV (R169). W or E form of SMOV, including literals. -/
  | smov (f : Ops)
  /-- SSEL (R169). Three-source scalar select: a if c is non-zero, else b. -/
  | ssel (f : Ops)
  /-- SPOP_C_FORM (R169). C form of SPOP: counts set bits. -/
  | spopC (f : COps)
  /-- SPOP (R169). W or E form of SPOP. -/
  | spop (f : Ops)
  /-- SCLZ_C_FORM (R169). C form of SCLZ: counts leading zeros. -/
  | sclzC (f : COps)
  /-- SCLZ (R169). W or E form of SCLZ. -/
  | sclz (f : Ops)
  /-- SCTZ (R169). Counts trailing zeros of a scalar. -/
  | sctz (f : Ops)
  /-- MASK_IF_C_FORM (R171). C form of MASK.IF: saves exec and narrows it by the operand. -/
  | maskIfC (f : COps)
  /-- MASK_IF (R171). W or E form of MASK.IF. -/
  | maskIf (f : Ops)
  /-- MASK_ELSE_C_FORM (R171). C form of MASK.ELSE: exec becomes the saved mask AND NOT the operand. -/
  | maskElseC (f : COps)
  /-- MASK_ELSE (R171). W or E form of MASK.ELSE. -/
  | maskElse (f : Ops)
  /-- MASK_END_C_FORM (R171). C form of MASK.END: restores exec from the saved mask. -/
  | maskEndC (f : COps)
  /-- MASK_END (R171). W or E form of MASK.END. -/
  | maskEnd (f : Ops)
  /-- MASK_LOOP_C_FORM (R171). C form of MASK.LOOP: narrows exec to continuing lanes or restores the saved mask. -/
  | maskLoopC (f : COps)
  /-- MASK_LOOP (R171). W or E form of MASK.LOOP. -/
  | maskLoop (f : Ops)
  /-- BALLOT (R172). Writes the mask of active lanes whose operand is non-zero. -/
  | ballot (f : Ops)
  /-- MPREFIX (R172). Writes each active lane the popcount of the mask below its lane. -/
  | mprefix (f : Ops)
  /-- MFIRST (R172). Writes the index of the lowest set bit of the operand, or 64. -/
  | mfirst (f : Ops)
  /-- EXRD_C_FORM (R172). C form of EXRD: reads exec into a scalar. -/
  | exrdC (f : COps)
  /-- EXRD (R172). W or E form of EXRD. -/
  | exrd (f : Ops)
  /-- EXWR_C_FORM (R172). C form of EXWR: writes exec. -/
  | exwrC (f : COps)
  /-- EXWR (R172). W or E form of EXWR. -/
  | exwr (f : Ops)
  /-- EXAND_C_FORM (R172). C form of EXAND: exec AND operand. -/
  | exandC (f : COps)
  /-- EXAND (R172). W or E form of EXAND. -/
  | exand (f : Ops)
  /-- EXANDN_C_FORM (R172). C form of EXANDN: exec AND NOT operand. -/
  | exandnC (f : COps)
  /-- EXANDN (R172). W or E form of EXANDN. -/
  | exandn (f : Ops)
  /-- ADD_C_FORM (R173). C form of ADD.I32: per-lane wrapping add. -/
  | addC (f : COps)
  /-- ADD (R173). W or E form of ADD.I32. -/
  | add (f : Ops)
  /-- SUB_C_FORM (R173). C form of SUB.I32. -/
  | subC (f : COps)
  /-- SUB (R173). W or E form of SUB.I32. -/
  | sub (f : Ops)
  /-- MUL_C_FORM (R173). C form of MUL.I32: low 32 bits of the product. -/
  | mulC (f : COps)
  /-- MUL (R173). W or E form of MUL.I32. -/
  | mul (f : Ops)
  /-- MULH_C_FORM (R173). C form of MULH: high 32 bits of the signed product. -/
  | mulhC (f : COps)
  /-- MULH (R173). W or E form of MULH. -/
  | mulh (f : Ops)
  /-- MULHU (R173). High 32 bits of the unsigned per-lane product. -/
  | mulhu (f : Ops)
  /-- MAD (R173). Three-source per-lane x times y plus z. -/
  | mad (f : Ops)
  /-- ADDS (R173). Per-lane signed saturating add. -/
  | adds (f : Ops)
  /-- SUBS (R173). Per-lane signed saturating subtract. -/
  | subs (f : Ops)
  /-- ADDUS (R173). Per-lane unsigned saturating add. -/
  | addus (f : Ops)
  /-- SUBUS (R173). Per-lane unsigned saturating subtract. -/
  | subus (f : Ops)
  /-- AND_C_FORM (R173). C form of AND.I32. -/
  | andC (f : COps)
  /-- AND (R173). W or E form of AND.I32. -/
  | and (f : Ops)
  /-- OR_C_FORM (R173). C form of OR.I32. -/
  | orC (f : COps)
  /-- OR (R173). W or E form of OR.I32. -/
  | or (f : Ops)
  /-- XOR_C_FORM (R173). C form of XOR.I32. -/
  | xorC (f : COps)
  /-- XOR (R173). W or E form of XOR.I32. -/
  | xor (f : Ops)
  /-- ANDN_C_FORM (R173). C form of ANDN.I32. -/
  | andnC (f : COps)
  /-- ANDN (R173). W or E form of ANDN.I32. -/
  | andn (f : Ops)
  /-- SHL_C_FORM (R173). C form of SHL.I32. -/
  | shlC (f : COps)
  /-- SHL (R173). W or E form of SHL.I32. -/
  | shl (f : Ops)
  /-- SHR_C_FORM (R173). C form of SHR.I32. -/
  | shrC (f : COps)
  /-- SHR (R173). W or E form of SHR.I32. -/
  | shr (f : Ops)
  /-- SRA_C_FORM (R173). C form of SRA.I32. -/
  | sraC (f : COps)
  /-- SRA (R173). W or E form of SRA.I32. -/
  | sra (f : Ops)
  /-- ROT_C_FORM (R173). C form of ROT.I32. -/
  | rotC (f : COps)
  /-- ROT (R173). W or E form of ROT.I32. -/
  | rot (f : Ops)
  /-- MIN_C_FORM (R173). C form of MIN.I32. -/
  | minC (f : COps)
  /-- MIN (R173). W or E form of MIN.I32. -/
  | min (f : Ops)
  /-- MAX_C_FORM (R173). C form of MAX.I32. -/
  | maxC (f : COps)
  /-- MAX (R173). W or E form of MAX.I32. -/
  | max (f : Ops)
  /-- MINU_C_FORM (R173). C form of MINU.I32. -/
  | minuC (f : COps)
  /-- MINU (R173). W or E form of MINU.I32. -/
  | minu (f : Ops)
  /-- MAXU_C_FORM (R173). C form of MAXU.I32. -/
  | maxuC (f : COps)
  /-- MAXU (R173). W or E form of MAXU.I32. -/
  | maxu (f : Ops)
  /-- ABS (R173). Per-lane wrapping absolute value. -/
  | abs (f : Ops)
  /-- NEG (R173). Per-lane wrapping negation. -/
  | neg (f : Ops)
  /-- CMPEQ_C_FORM (R173). C form of CMPEQ.I32: writes a lane mask to a scalar. -/
  | cmpeqC (f : COps)
  /-- CMPEQ (R173). W or E form of CMPEQ.I32. -/
  | cmpeq (f : Ops)
  /-- CMPNE_C_FORM (R173). C form of CMPNE.I32. -/
  | cmpneC (f : COps)
  /-- CMPNE (R173). W or E form of CMPNE.I32. -/
  | cmpne (f : Ops)
  /-- CMPLT_C_FORM (R173). C form of CMPLT.I32. -/
  | cmpltC (f : COps)
  /-- CMPLT (R173). W or E form of CMPLT.I32. -/
  | cmplt (f : Ops)
  /-- CMPLTU_C_FORM (R173). C form of CMPLTU.I32. -/
  | cmpltuC (f : COps)
  /-- CMPLTU (R173). W or E form of CMPLTU.I32. -/
  | cmpltu (f : Ops)
  /-- CMPLE (R173). Per-lane signed less-or-equal compare into a scalar mask. -/
  | cmple (f : Ops)
  /-- CMPLEU (R173). Per-lane unsigned less-or-equal compare into a scalar mask. -/
  | cmpleu (f : Ops)
  /-- MOV_C_FORM (R173). C form of MOV.I32. -/
  | movC (f : COps)
  /-- MOV (R173). W or E form of MOV.I32. -/
  | mov (f : Ops)
  /-- SEL (R174). Three-source per-lane select by a vector, scalar-mask or immediate condition. -/
  | sel (f : Ops)
  /-- POPC_C_FORM (R173). C form of POPC. -/
  | popcC (f : COps)
  /-- POPC (R173). W or E form of POPC. -/
  | popc (f : Ops)
  /-- CLZ_C_FORM (R173). C form of CLZ. -/
  | clzC (f : COps)
  /-- CLZ (R173). W or E form of CLZ. -/
  | clz (f : Ops)
  /-- CTZ_C_FORM (R173). C form of CTZ. -/
  | ctzC (f : COps)
  /-- CTZ (R173). W or E form of CTZ. -/
  | ctz (f : Ops)
  /-- VIDX_C_FORM (R175). C form of VIDX: writes each lane its index. -/
  | vidxC (f : COps)
  /-- VIDX (R175). W or E form of VIDX. -/
  | vidx (f : Ops)
  /-- VAFF_C_FORM (R175). C form of VAFF: writes a + l times b. -/
  | vaffC (f : COps)
  /-- VAFF (R175). W or E form of VAFF. -/
  | vaff (f : Ops)
  /-- VTAG_C_FORM (R175). C form of VTAG: writes a vector register's tag code to a scalar. -/
  | vtagC (f : COps)
  /-- VTAG (R175). W or E form of VTAG. -/
  | vtag (f : Ops)
  /-- ADD64_C_FORM (R176). C form of ADD64 on register pairs. -/
  | add64C (f : COps)
  /-- ADD64 (R176). W or E form of ADD64. -/
  | add64 (f : Ops)
  /-- SUB64_C_FORM (R176). C form of SUB64. -/
  | sub64C (f : COps)
  /-- SUB64 (R176). W or E form of SUB64. -/
  | sub64 (f : Ops)
  /-- SHL64_C_FORM (R176). C form of SHL64. -/
  | shl64C (f : COps)
  /-- SHL64 (R176). W or E form of SHL64. -/
  | shl64 (f : Ops)
  /-- SHR64_C_FORM (R176). C form of SHR64. -/
  | shr64C (f : COps)
  /-- SHR64 (R176). W or E form of SHR64. -/
  | shr64 (f : Ops)
  /-- DIV_C_FORM (R173). C form of vector DIV. -/
  | divC (f : COps)
  /-- DIV (R173). W or E form of vector DIV. -/
  | div (f : Ops)
  /-- DIVU_C_FORM (R173). C form of vector DIVU. -/
  | divuC (f : COps)
  /-- DIVU (R173). W or E form of vector DIVU. -/
  | divu (f : Ops)
  /-- REM_C_FORM (R173). C form of vector REM. -/
  | remC (f : COps)
  /-- REM (R173). W or E form of vector REM. -/
  | rem (f : Ops)
  /-- REMU_C_FORM (R173). C form of vector REMU. -/
  | remuC (f : COps)
  /-- REMU (R173). W or E form of vector REMU. -/
  | remu (f : Ops)
  /-- FADD_C_FORM (R177). C form of FADD.F32. -/
  | faddC (f : COps)
  /-- FADD (R177). W or E form of FADD with any float type. -/
  | fadd (f : Ops) (ty : FTy)
  /-- FSUB_C_FORM (R177). C form of FSUB.F32. -/
  | fsubC (f : COps)
  /-- FSUB (R177). W or E form of FSUB. -/
  | fsub (f : Ops) (ty : FTy)
  /-- FMUL_C_FORM (R177). C form of FMUL.F32. -/
  | fmulC (f : COps)
  /-- FMUL (R177). W or E form of FMUL. -/
  | fmul (f : Ops) (ty : FTy)
  /-- FMA (R177). Three-source fused multiply-add with one rounding. -/
  | fma (f : Ops) (ty : FTy)
  /-- FMS (R177). Three-source fused multiply-subtract with one rounding. -/
  | fms (f : Ops) (ty : FTy)
  /-- FMIN_C_FORM (R178). C form of FMIN.F32 (minimumNumber). -/
  | fminC (f : COps)
  /-- FMIN (R178). W or E form of FMIN. -/
  | fmin (f : Ops) (ty : FTy)
  /-- FMAX_C_FORM (R178). C form of FMAX.F32 (maximumNumber). -/
  | fmaxC (f : COps)
  /-- FMAX (R178). W or E form of FMAX. -/
  | fmax (f : Ops) (ty : FTy)
  /-- FABS_C_FORM (R177). C form of FABS.F32. -/
  | fabsC (f : COps)
  /-- FABS (R177). W or E form of FABS. -/
  | fabs (f : Ops) (ty : FTy)
  /-- FNEG_C_FORM (R177). C form of FNEG.F32. -/
  | fnegC (f : COps)
  /-- FNEG (R177). W or E form of FNEG. -/
  | fneg (f : Ops) (ty : FTy)
  /-- FCOPYS (R177). Magnitude of x with the sign of y. -/
  | fcopys (f : Ops) (ty : FTy)
  /-- FCMPEQ_C_FORM (R179). C form of FCMPEQ.F32. -/
  | fcmpeqC (f : COps)
  /-- FCMPEQ (R179). W or E form of FCMPEQ. -/
  | fcmpeq (f : Ops)
  /-- FCMPNE_C_FORM (R179). C form of FCMPNE.F32. -/
  | fcmpneC (f : COps)
  /-- FCMPNE (R179). W or E form of FCMPNE. -/
  | fcmpne (f : Ops)
  /-- FCMPLT_C_FORM (R179). C form of FCMPLT.F32. -/
  | fcmpltC (f : COps)
  /-- FCMPLT (R179). W or E form of FCMPLT. -/
  | fcmplt (f : Ops)
  /-- FCMPLE_C_FORM (R179). C form of FCMPLE.F32. -/
  | fcmpleC (f : COps)
  /-- FCMPLE (R179). W or E form of FCMPLE. -/
  | fcmple (f : Ops)
  /-- FCMPUN (R179). Sets the lane bit where either operand is NaN. -/
  | fcmpun (f : Ops)
  /-- FRND_C_FORM (R177). C form of FRND.F32: round to integral by RM. -/
  | frndC (f : COps)
  /-- FRND (R177). W or E form of FRND. -/
  | frnd (f : Ops) (ty : FTy)
  /-- FFLOOR_C_FORM (R177). C form of FFLOOR.F32. -/
  | ffloorC (f : COps)
  /-- FFLOOR (R177). W or E form of FFLOOR. -/
  | ffloor (f : Ops) (ty : FTy)
  /-- FCEIL_C_FORM (R177). C form of FCEIL.F32. -/
  | fceilC (f : COps)
  /-- FCEIL (R177). W or E form of FCEIL. -/
  | fceil (f : Ops) (ty : FTy)
  /-- FTRUNC_C_FORM (R177). C form of FTRUNC.F32. -/
  | ftruncC (f : COps)
  /-- FTRUNC (R177). W or E form of FTRUNC. -/
  | ftrunc (f : Ops) (ty : FTy)
  /-- FCLASS_C_FORM (R179). C form of FCLASS: writes a one-hot class mask per lane. -/
  | fclassC (f : COps)
  /-- FCLASS (R179). W or E form of FCLASS. -/
  | fclass (f : Ops)
  /-- CVT (R58). Converts each active lane between float and integer formats with rounding and saturation. -/
  | cvt (f : Ops) (dst src : Fmt) (rnd : Option RM) (sat : Bool)
  /-- BFPK (R59). Quantises lanes into canonical-block lane codes by R50 and R51. -/
  | bfpk (f : Ops) (m : MCode)
  /-- BFPU (R59). Expands lane codes back to FP32. -/
  | bfpu (f : Ops) (m : MCode)
  /-- EXP2_C_FORM (R180). C form of EXP2.F32. -/
  | exp2C (f : COps)
  /-- EXP2 (R180). W or E form of EXP2. -/
  | exp2 (f : Ops) (ty : FTy)
  /-- LOG2_C_FORM (R180). C form of LOG2.F32. -/
  | log2C (f : COps)
  /-- LOG2 (R180). W or E form of LOG2. -/
  | log2 (f : Ops) (ty : FTy)
  /-- SINPI_C_FORM (R180). C form of SINPI.F32. -/
  | sinpiC (f : COps)
  /-- SINPI (R180). W or E form of SINPI. -/
  | sinpi (f : Ops) (ty : FTy)
  /-- COSPI_C_FORM (R180). C form of COSPI.F32. -/
  | cospiC (f : COps)
  /-- COSPI (R180). W or E form of COSPI. -/
  | cospi (f : Ops) (ty : FTy)
  /-- RSQ (R180). Per-lane reciprocal square root. -/
  | rsq (f : Ops) (ty : FTy)
  /-- RCP (R180). Per-lane reciprocal. -/
  | rcp (f : Ops) (ty : FTy)
  /-- SQRT (R180). Per-lane square root. -/
  | sqrt (f : Ops) (ty : FTy)
  /-- TANH (R180). Per-lane hyperbolic tangent. -/
  | tanh (f : Ops) (ty : FTy)
  /-- SIGM (R180). Per-lane logistic sigmoid. -/
  | sigm (f : Ops) (ty : FTy)
  /-- ACT (R183). Evaluates a Sepia activation bank piecewise-linearly per element. -/
  | act (f : Ops) (bank : Bool) (ty : FTy)
  /-- ACTLD (R184). Loads a Sepia bank from a scratchpad record after in-flight ACTs on it drain. -/
  | actld (f : Ops) (bank : Bool)
  /-- VPERM (R186). Writes each active lane the value of the lane its index names. -/
  | vperm (f : Ops)
  /-- VSCAN (R187). Inclusive or exclusive scan over active lanes in ascending order. -/
  | vscan (f : Ops) (op : ScanOp) (excl : Bool)
  /-- VSORT (R189). Stable sort of keys over the active lanes. -/
  | vsort (f : Ops) (key : KeyTy) (desc : Bool)
  /-- VSORTKV (R189). Stable sort of key-value pairs over the active lanes. -/
  | vsortkv (f : Ops) (key : KeyTy) (desc : Bool)
  /-- VARGMAX (R190). Writes the index of the active lane holding the greatest key. -/
  | vargmax (f : Ops) (key : KeyTy)
  /-- LD (R231). Per-lane global load. -/
  | ld (f : Ops) (g : GAddr) (w : Width) (o : Sync)
  /-- ST (R231). Per-lane global store, performed when oldest. -/
  | st (f : Ops) (g : GAddr) (w : Width) (o : Sync)
  /-- LDS (R231). Scalar global load, once for the warp. -/
  | lds (f : Ops) (g : GAddr) (w : Width) (o : Sync)
  /-- STS (R231). Scalar global store, once for the warp. -/
  | sts (f : Ops) (g : GAddr) (w : Width) (o : Sync)
  /-- LDU (R231). Uniform load from lane 0's address written to every active lane. -/
  | ldu (f : Ops) (g : GAddr) (w : Width) (o : Sync)
  /-- LDF (R233). Blocking far load that ends a stint and blocks until data returns. -/
  | ldf (f : Ops) (g : GAddr) (w : Width) (o : Sync)
  /-- PREF (R234). Asks for the addressed lines to be brought into their home die cache; never faults on addresses. -/
  | pref (f : Ops) (g : GAddr)
  /-- ATOM (R235). Per-lane atomic read-modify-write at the line's home partition unit, returning old values. -/
  | atom (f : Ops) (g : GAddr) (op : AOp) (w64 : Bool) (o : Sync)
  /-- RED (R236). Per-lane reduction sent to the home partition unit; retires once it leaves the core. -/
  | red (f : Ops) (g : GAddr) (op : AOp) (w64 : Bool) (o : Sync)
  /-- RED_PERFORM (R236). A partition unit applies a reduction to its word; a poisoned line is left poisoned and reported. -/
  | redPerform (i : Nat)
  /-- FENCE (R237). Orders the warp's operations by kind and scope; sc fences join the single order. -/
  | fence (f : Ops) (kind : FenceKind) (scope : Scope)
  /-- LDL (R110). Per-lane scratchpad load. -/
  | ldl (f : Ops) (w : Width)
  /-- STL (R110). Per-lane scratchpad store, highest lane wins. -/
  | stl (f : Ops) (w : Width)
  /-- ATOML (R111). Per-lane atomic on a scratchpad word at its Ochre unit, returning the old value. -/
  | atoml (f : Ops) (op : AOp) (o : Order)
  /-- BNK_ADD (R112). Ochre INT32 add on each named word. -/
  | bnkAdd (f : Ops) (row : Bool)
  /-- BNK_MAX (R112). Ochre signed maximum on each named word. -/
  | bnkMax (f : Ops) (row : Bool)
  /-- BNK_MIN (R112). Ochre signed minimum on each named word. -/
  | bnkMin (f : Ops) (row : Bool)
  /-- BNK_FADD (R112). Ochre FP32 or BF16-pair add in place. -/
  | bnkFadd (f : Ops) (row bf : Bool)
  /-- BNK_FMAX (R112). Ochre float maximum in place. -/
  | bnkFmax (f : Ops) (row bf : Bool)
  /-- BNK_FMIN (R112). Ochre float minimum in place. -/
  | bnkFmin (f : Ops) (row bf : Bool)
  /-- BNK_FMUL (R112). Ochre multiply of each word by an operand. -/
  | bnkFmul (f : Ops) (row bf : Bool)
  /-- BNK_FMA (R112). Ochre fused multiply-add on each word. -/
  | bnkFma (f : Ops) (row bf : Bool)
  /-- BNK_XMS (R101). Ochre running max and exp-sum update of an (m, s) pair. -/
  | bnkXms (f : Ops) (row : Bool)
  /-- BNK_CAS (R112). Ochre compare-and-swap returning the old word. -/
  | bnkCas (f : Ops) (row : Bool)
  /-- BNK_XCHG (R112). Ochre exchange returning the old word. -/
  | bnkXchg (f : Ops) (row : Bool)
  /-- BNK_FILL (R112). Ochre fill of each word with a pattern. -/
  | bnkFill (f : Ops) (row : Bool)
  /-- BULK (R114). Issues one Ochre operation over a tile of words in every bank, arriving on an object. -/
  | bulk (f : Ops) (op : BulkOp) (shape bf : Bool) (obj : BitVec 16)
  /-- BULK_COMPLETE (R102). A BULK finishes its word operations and arrives with its byte count at group scope. -/
  | bulkComplete (core i : Nat)
  /-- BCPY (R116). Issues a copy of 64-byte chunks within bank groups with a word rotation. -/
  | bcpy (f : Ops) (rot : BitVec 2) (obj : BitVec 16)
  /-- BCPY_COMPLETE (R104). A BCPY finishes its chunks and arrives with its length at group scope. -/
  | bcpyComplete (core i : Nat)
  /-- TAGL (R117). Looks up keys in the workgroup's tag partition. -/
  | tagl (f : Ops)
  /-- TAGI (R117). Installs or replaces keys in the tag partition. -/
  | tagi (f : Ops)
  /-- TAGD (R117). Removes keys from the tag partition. -/
  | tagd (f : Ops)
  /-- CPY (R87). Validates and queues a byte copy between global memory and scratchpad. -/
  | cpy (f : Ops) (q : BitVec 3) (srcLocal dstLocal : Bool)
  /-- CPYT (R88). Validates and queues a tile copy with format conversion, changing the tile state. -/
  | cpyt (f : Ops) (out : Bool) (q : BitVec 3) (fmt : BitVec 4) (pitch : BitVec 14) (centre transpose : Bool)
  /-- GATH (R89). Queues a one- or two-level indexed gather into scratchpad rows. -/
  | gath (f : Ops) (q : BitVec 3)
  /-- SCAT (R89). Queues an indexed scatter of scratchpad rows to global memory. -/
  | scat (f : Ops) (q : BitVec 3)
  /-- SCAT_RED (R89). Queues an indexed scatter that reduces rows into global memory. -/
  | scatRed (f : Ops) (q : BitVec 3)
  /-- SCAT_RED_REDUCTION (R75). A folded value of a SCAT.RED is applied atomically at the line's partition unit. -/
  | scatRedReduction (core q i : Nat)
  /-- QFENCE (R90). Enters a queue a fence that holds later commands behind earlier ones of the named queues. -/
  | qfence (f : Ops) (hasObj : Bool) (q : BitVec 3)
  /-- QFENCE_COMPLETE (R60). A QFENCE at its queue head completes once the named queues have drained ahead of it and arrives with 1. -/
  | qfenceComplete (core q : Nat)
  /-- ENGINE_TAKES_COMMAND (R61). A free copy engine takes the earliest-issued eligible head command and works its segments. -/
  | engineTakesCommand (die engine : Nat)
  /-- ASYNC_COMMAND_COMPLETE (R62). An engine command finishes its writes, changes its tile state back to READY and arrives once. -/
  | asyncCommandComplete (core q : Nat)
  /-- ARV_INIT (R91). Initialises an arrival object's count, phase and status. -/
  | arvInit (f : Ops)
  /-- ARV_ADD (R91). Arrives on an object with a count and status flags, as a group-scope release. -/
  | arvAdd (f : Ops) (flags : BitVec 3)
  /-- ARV_EXP (R91). Raises the current phase's REM and returns the old word 0. -/
  | arvExp (f : Ops)
  /-- DEC_SUB (R92). Submits a decode record to a decoder of the die, returning accepted or busy. -/
  | decSub (f : Ops)
  /-- DEC_STAT (R93). Reads a decoder's queue, activity and corrupt-mark status. -/
  | decStat (f : Ops)
  /-- DECODER_RECORD_START (R77). A Vermilion decoder begins the next record of its queue in order. -/
  | decoderRecordStart (die dec : Nat)
  /-- DECODER_OUTPUT_FRAME (R78). A decoder writes one output frame's window and status word, updates corrupt marks and arrives. -/
  | decoderOutputFrame (die dec : Nat)
  /-- TDSET (R204). Describes a tile in the tile-table entry of a descriptor. -/
  | tdset (f : Ops) (rdy : Bool) (m : MCode)
  /-- TDGET (R205). Reads a tile-table entry into a scalar. -/
  | tdget (f : Ops)
  /-- TFREE (R206). Clears a tile-table entry once its readers are done. -/
  | tfree (f : Ops)
  /-- MMA_C_FORM (R207). C form of MMA: multiplies two tiles into an accumulator tile. -/
  | mmaC (f : COps)
  /-- MMA (R207). W or E form of MMA. -/
  | mma (f : Ops)
  /-- MMA_SP_C_FORM (R207). C form of MMA.SP: sparse-costed multiply with identical bits. -/
  | mmaSpC (f : COps)
  /-- MMA_SP (R207). W or E form of MMA.SP. -/
  | mmaSp (f : Ops)
  /-- ACCZ_C_FORM (R208). C form of ACCZ: zeroes the owned rows of an accumulator tile. -/
  | acczC (f : COps)
  /-- ACCZ (R208). W or E form of ACCZ. -/
  | accz (f : Ops)
  /-- ACCL (R209). Loads owned accumulator rows from scratchpad. -/
  | accl (f : Ops)
  /-- ACCR (R210). Reads one accumulator element per active lane. -/
  | accr (f : Ops) (g : BitVec 2)
  /-- ACCD (R211). Drains an accumulator into a tile and optionally a transposed tile. -/
  | accd (f : Ops) (tr : Bool)
  /-- MATRIX_OPERATION_START (R196). The matrix engine begins the next queued operation on an accumulator tile in queue order. -/
  | matrixOperationStart (core i : Nat)
  /-- MATRIX_OPERATION_COMPLETE (R196). A matrix operation finishes; for ACCD the tiles become READY and the drain arrives. -/
  | matrixOperationComplete (core i : Nat)
  /-- SET_INS_C_FORM (R142). C form of SET.INS: inserts keys lane by lane at the home slice. -/
  | setInsC (f : COps)
  /-- SET_INS (R142). W or E form of SET.INS. -/
  | setIns (f : Ops)
  /-- SET_DEL_C_FORM (R142). C form of SET.DEL. -/
  | setDelC (f : COps)
  /-- SET_DEL (R142). W or E form of SET.DEL. -/
  | setDel (f : Ops)
  /-- SET_TEST_C_FORM (R142). C form of SET.TEST. -/
  | setTestC (f : COps)
  /-- SET_TEST (R142). W or E form of SET.TEST. -/
  | setTest (f : Ops)
  /-- SET_CARD_C_FORM (R142). C form of SET.CARD. -/
  | setCardC (f : COps)
  /-- SET_CARD (R142). W or E form of SET.CARD, including W64. -/
  | setCard (f : Ops) (w64 : Bool)
  /-- SET_RANK_C_FORM (R142). C form of SET.RANK. -/
  | setRankC (f : COps)
  /-- SET_RANK (R142). W or E form of SET.RANK. -/
  | setRank (f : Ops)
  /-- SET_SEL_C_FORM (R142). C form of SET.SEL. -/
  | setSelC (f : COps)
  /-- SET_SEL (R142). W or E form of SET.SEL. -/
  | setSel (f : Ops)
  /-- SET_NEXT_C_FORM (R142). C form of SET.NEXT. -/
  | setNextC (f : COps)
  /-- SET_NEXT (R142). W or E form of SET.NEXT. -/
  | setNext (f : Ops)
  /-- SET_UNION (R151). Issues a bulk union of two sets into a destination. -/
  | setUnion (f : Ops)
  /-- SET_INTER (R151). Issues a bulk intersection into a destination. -/
  | setInter (f : Ops)
  /-- SET_DIFF (R151). Issues a bulk difference into a destination. -/
  | setDiff (f : Ops)
  /-- SET_XCARD (R151). Issues a count of an intersection, union or difference into scratchpad. -/
  | setXcard (f : Ops) (op : XOp)
  /-- SET_COPY (R151). Issues a bulk copy of a set into a destination. -/
  | setCopy (f : Ops)
  /-- SET_IMPORT (R152). Issues an import of a global key array into a set. -/
  | setImport (f : Ops) (repl : Bool)
  /-- SET_EXPORT (R153). Issues an export of a set's count and sorted members to global memory. -/
  | setExport (f : Ops)
  /-- SET_BULK_START (R131). A bulk set command linearises at its home and takes consistent references to its operands. -/
  | setBulkStart (ctx i : Nat)
  /-- SET_BULK_COMPLETE (R150). A bulk set command writes its result, charges its counters and arrives. -/
  | setBulkComplete (ctx i : Nat)
  /-- SET_NEW (R144). Creates an empty set and returns its handle. -/
  | setNew (f : Ops) (hint : Bool)
  /-- SET_FREE (R145). Frees a set, making every copy of its handle stale. -/
  | setFree (f : Ops)
  /-- SET_CLEAR (R145). Removes every member of a set. -/
  | setClear (f : Ops)
  /-- SET_PIN (R146). Sets or clears a set's pin within the slice's 1 MiB limit. -/
  | setPin (f : Ops) (on : Bool)
  /-- SET_REP (R147). Reads a set's layout and one pane's representation. -/
  | setRep (f : Ops)
  /-- SET_COST (R148). Reads one of a set's cost counters. -/
  | setCost (f : Ops)
  /-- SET_EST (R149). Estimates a proposed bulk command's byte and clock increments. -/
  | setEst (f : Ops) (q : EstQ) (cmd : EstCmd)
  /-- EMULATED_OPCODE (R27). Any word of majors 0xF0 to 0xF7, VCLMUL, VCLMULH and VBREV included, traps with cause 0x05. -/
  | emulatedOpcode (w0 w1 w2 : Word)
  /-- ILLEGAL_LENGTH (R12). A word with length code 11 traps with cause 0x01. -/
  | illegalLength (w0 : Word)
  /-- UNDEFINED_OPCODE (R26). An unlisted major, minor or form traps with cause 0x02. -/
  | undefinedOpcode (w0 w1 w2 : Word)
  /-- TRAP (R309). Raises software trap cause 0x29 with the operand as address. -/
  | trap (f : Ops)
  /-- BKPT (R309). Raises breakpoint cause 0x28. -/
  | bkpt (f : Ops)
  /-- RETT (R310). Leaves handler mode, restores exec from texec, resumes at tpc and releases halted siblings. -/
  | rett (f : Ops)
  /-- MOVFA (R311). Copies an architectural register of the interrupted warp into a handler register. -/
  | movfa (f : Ops) (cls : Bool)
  /-- MOVTA (R311). Copies a handler register into an architectural register. -/
  | movta (f : Ops) (cls : Bool)
  /-- SYSR (R312). Reads a system register into a scalar. -/
  | sysr (f : Ops) (r : SysReg)
  /-- SYSW (R312). Writes a system register at its place in program order. -/
  | sysw (f : Ops) (r : SysReg)
  /-- ICINV (R314). Discards younger fetched instructions and drops the context's instruction-cache lines. -/
  | icinv (f : Ops)
  /-- PAGE_WALK_START (R40). A TLB miss takes one of the die's page walkers, waiting if all are busy. -/
  | pageWalkStart (core ctx : Nat) (va : DWord)
  /-- TRANSLATION_REWALK (R44). A walk that met MIG = 1 walks again after waiting. -/
  | translationRewalk (k : Nat)
  /-- INVAL (R43). An INVAL translation command removes covered translations from every TLB. -/
  | inval
  /-- INVAL_COMPLETE (R43). Once accesses and commands under old translations have performed, the INVAL arrives. -/
  | invalComplete
  /-- ZMAP (R41). A ZMAP translation command checks its range and has the controllers zero the frames. -/
  | zmap
  /-- ZMAP_WRITE_ENTRIES (R41). Once zeroing is visible, ZMAP writes its level-3 entries and arrives. -/
  | zmapWriteEntries
  /-- TRANSLATION_COMMAND_RESERVED (R42). A translation record with reserved KIND or bad fields performs nothing and arrives with BOUND. -/
  | translationCommandReserved
  /-- ARBITRATE (R250). At a stint boundary a slot chooses the next ready warp by priority, greed, fairness and age. -/
  | arbitrate (core slot : Nat)
  /-- PLACE_WORKGROUP (R253). A die's grid scheduler places a workgroup of the first grid in order on the first core that fits. -/
  | placeWorkgroup (die : Nat)
  /-- TAKE_LAUNCH_ENTRY (R273). The scheduler takes a pending-launch entry after its spacing limits, making the child grid runnable with a sequence number. -/
  | takeLaunchEntry (wg : Nat)
  /-- WORKGROUP_EXIT_FINISH (R62). A workgroup whose warps have exited and whose commands have arrived finishes and releases its resources. -/
  | workgroupExitFinish (wg : Nat)
  /-- EVICTION_START (R276). An eligible workgroup is evicted on JOIN, full LAUNCH, higher-priority demand or pre-emption, and drains. -/
  | evictionStart (wg : Nat)
  /-- EVICTION_SAVE (R277). After the drain the workgroup's state is saved to the eviction area and its resources released. -/
  | evictionSave (wg : Nat)
  /-- WAIT_WAKE (R267). A write to a watched word wakes a warp at AWAIT, BWAIT or JOIN to re-read and complete or wait again. -/
  | waitWake (k : Nat)
  /-- WORKGROUP_RESUMABLE (R281). An evicted workgroup becomes resumable when any warp's wake condition holds. -/
  | workgroupResumable (wg : Nat)
  /-- RESUME_WORKGROUP (R282). A resumable workgroup is placed, restored, and each warp proceeds by its KIND. -/
  | resumeWorkgroup (die : Nat)
  /-- ASYNC_TRAP_EVENT (R289). An asynchronous event is queued in a warp's trap queue, abandoning a blocking wait or being discarded when full. -/
  | asyncTrapEvent (k : Nat) (cause : Byte) (detail : DWord)
  /-- TRAP_DELIVER (R292). The head trap-queue entry is delivered: vector entry read, policy applied, frame written, handler entered. -/
  | trapDeliver (k : Nat)
  /-- SIBLING_HALT_STOP (R296). A notified sibling stops after its skid and its halt record is written. -/
  | siblingHaltStop (k : Nat)
  /-- PEER_INGRESS_COMMAND (R322). An incoming peer command writes its exported range and arrives on the ingress object. -/
  | peerIngressCommand (port entry : Nat) (key : Word) (off : Nat) (bytes : List Byte)
  /-- ENGINE_MASTER_RELEASE (R303). The host releases a frozen master; its commands arrive with POISON and undone writes are dropped. -/
  | engineMasterRelease (unit : BitVec 16)
  /-- PEER_ACK_TIMEOUT (R323). A peer copy unacknowledged after 100 ms arrives with its full count and POISON set. -/
  | peerAckTimeout (core q : Nat)
  /-- THERMAL_LIMIT (R327). A die crossing its power or temperature limit starts or stops inserting idle clocks and throttling bank starts. -/
  | thermalLimit (die : Nat) (on : Bool) (banks : BankStarts)
  /-- FREEZE (R305). A management command, fatal management error or 115 C junction stops every clock outside the management domain. -/
  | freeze (why : FreezeCause)
  /-- BOOT (R325). At reset management core 0 fetches, verifies and accepts firmware, trying the secondary target on failure. -/
  | boot (primary secondary : Option FwImage)
  /-- ATTESTATION_REQUEST (R326). An attestation request with a nonce is answered with signed measurements. -/
  | attestationRequest (nonce : BitVec 256) (viaDoe : Bool)
  /-- DOORBELL (R320). A write to a doorbell page sets the queue's QTAIL and lets the device consume entries. -/
  | doorbell (q : Nat) (v : Word)
  /-- QUEUE_ENABLE (R320). Setting QCTL ENABLE starts a host queue if its sizes and ceiling are within limits. -/
  | queueEnable (q : Nat) (v : Word)
  /-- QUEUE_DISABLE (R320). Clearing QCTL ENABLE stops consumption after the current entry and resets the queue indices. -/
  | queueDisable (q : Nat) (v : Word)
  /-- EVCAUSE_CLEAR (R320). A write of ones to EVCAUSE clears device-event bits. -/
  | evcauseClear (v : DWord)
  /-- REGISTER_WRITE (R320). A write to a BAR0 register or table entry with no row of its own updates it. -/
  | registerWrite (off size : Nat) (v : DWord)
  /-- BAR2_WRITE (R315). A host write through BAR2 performs at device scope in posted order into the windowed tier. -/
  | bar2Write (off : Nat) (bytes : List Byte)
  /-- HOST_LAUNCH (R318). A host-queue LAUNCH entry makes a depth-0 grid runnable at a capped priority, or is rejected. -/
  | hostLaunch (q : Nat)
  /-- XLATE (R318). A host-queue XLATE entry forwards a translation command to the translation queue. -/
  | xlate (q : Nat)
  /-- DESC (R317). A host-queue DESC entry registers or replaces a context descriptor. -/
  | desc (q : Nat)
  /-- PREEMPT (R284). A host-queue PREEMPT entry starts a pre-emption request for a context. -/
  | preempt (q : Nat)
  /-- PREEMPT_TIMEOUT (R284). At the pre-emption timeout the context is reported pre-empted or unpreemptible with a report of resident workgroups. -/
  | preemptTimeout (ctx : Nat)
  /-- WITHDRAW (R284). A host-queue WITHDRAW entry ends a pre-emption request. -/
  | withdraw (q : Nat)
  /-- KILL (R285). A host-queue KILL entry kills a grid and its descendants. -/
  | kill (q : Nat)
  /-- DECAREA (R318). A host-queue DECAREA entry registers a decoder stream context's working area. -/
  | decarea (q : Nat)
  /-- ATTACH (R321). Attaches a debugger to a context with an event ring and claimed causes. -/
  | attach (q : Nat)
  /-- STOP (R321). Queues an asynchronous breakpoint entry with a tag in named warps. -/
  | stop (q : Nat)
  /-- RESUME (R321). Resumes named stopped warps as RETT does, optionally at a new PC and refetching. -/
  | resume (q : Nat)
  /-- DBGREAD (R321). Writes a stopped warp's saved state, frame slot, tpc and texec to a host buffer. -/
  | dbgread (q : Nat)
  /-- DBGWRITE (R321). Writes one register or control value of a stopped warp. -/
  | dbgwrite (q : Nat)
  /-- DETACH (R321). Resumes every stopped warp of the context and clears the claims. -/
  | detach (q : Nat)
  /-- DEBUG_EVENT_WRITE (R321). A claimed stop writes its event to the debug ring when room exists and signals MSI-X vector 66. -/
  | debugEventWrite (ctx : Nat)
  /-- ENGINE_FAULT (R303). A copy engine, decoder or Cerulean slice that suffers an engine fault and attempts an access its translation or window does not permit freezes in place, and a FROZEN record is written. -/
  | engineFault (unit : BitVec 16) (addr : DWord)
  /-- CONFIGURATION_REQUEST (R325). A PCIe configuration request arriving from the host is answered, with retry status for every request while boot has failed on both targets. -/
  | configurationRequest (req : Word)
deriving DecidableEq, Repr

end Sys2Proof
end

