-- ==== Sys2Proof/WellFormed.lean ====
section
/-! DEFINITION. Which instructions are well formed: for each constructor the row of its encoding table (opcode, minor,
field classes, MOD and MOD2) and the decode checks of R18, R21, R22, R24, R155 and of the family's chapter. A failing
check is cause 0x03 (R28). -/

namespace Sys2Proof

/-- What of the warp a decode check reads: its width, its declared register counts (R155), whether it is in handler
mode (R294), its kernel's cohort count and the cohorts it is a member of (R258). -/
structure DCtx where
  width : Nat := 64
  vregs : Nat := 64
  sregs : Nat := 64
  handler : Bool := false
  coh : Nat := 16
  member : BitVec 16 := 0xFFFF
deriving DecidableEq, Repr

/-- What field D holds: nothing, a vector, an even vector of a pair, a scalar, a tile descriptor or accumulator tile,
or the destination of BFPK, which is a pair at W = 16 (R59). -/
inductive DK where | none | v | ve | s | t | vBfp
deriving DecidableEq, Repr

/-- What a source field may hold. `z` is an unused field. `s` a scalar register, `si` or an IMM10, `siL` or a literal
(R30); `vi`, `viL` the same of a vector; `ve`, `veiL` of an even vector of a pair; `vId` a vector through identity;
`vs` an even vector pointer or a scalar (R229); `any` all classes; `anySi` all but a vector; `off` an optional offset,
absent when all zero (R230); `t` a tile descriptor or accumulator tile; `bfp` the source of BFPK (R59). -/
inductive SK where | z | s | si | siL | v | vi | viL | ve | veiL | vId | vs | any | anySi | off | t | bfp
deriving DecidableEq, Repr

/-- The forms an instruction may take (R18, R109, R227). -/
inductive FormReq where | any | e0Only | wOnly
deriving DecidableEq, Repr

/-- A row of an encoding table for a W or E word. -/
structure Sig where
  op : BitVec 8
  x : BitVec 4
  d : DK
  a : SK
  b : SK
  c : SK
  mod : BitVec 8
  mod2 : BitVec 16
  form : FormReq
  extra : DCtx → Bool

/-- A row of R25 for a C-form word, with the classes of the fields the minor uses (R16). -/
structure CSig where
  op : BitVec 8
  x : BitVec 2
  d : DK
  a : DK
  b : DK

/-! Codes of the modifiers. -/

def FTy.code : FTy → BitVec 8 | .f32 => 0 | .f16x2 => 1 | .bf16x2 => 2
def KeyTy.code : KeyTy → BitVec 8 | .i32 => 0 | .u32 => 1 | .f32 => 2
def Fmt.code : Fmt → BitVec 4
  | .f32 => 0 | .f16 => 1 | .bf16 => 2 | .f16x2 => 3 | .bf16x2 => 4 | .e4m3 => 5 | .e5m2 => 6 | .i32 => 7 | .u32 => 8
  | .i8 => 9 | .u8 => 10 | .i4 => 11
def Fmt.isPair : Fmt → Bool | .f16x2 | .bf16x2 => true | _ => false
/-- The rounding override of CVT (R58). -/
def RM.code : Option RM → BitVec 3
  | none => 0 | some .rne => 1 | some .rtz => 2 | some .rup => 3 | some .rdn => 4
def MCode.code : MCode → BitVec 4
  | .m2 => 1 | .m3 => 2 | .m4 => 3 | .m5 => 4 | .m6 => 5 | .m7 => 6 | .m8 => 7 | .m16 => 15
def ScanOp.code : ScanOp → BitVec 8 | .add => 0 | .max => 1 | .min => 2 | .fadd => 3 | .fmax => 4 | .fmin => 5
def Width.code : Width → BitVec 3 | .w32 => 0 | .w64 => 1 | .u8 => 2 | .s8 => 3 | .u16 => 4 | .s16 => 5 | .s32 => 6
def Order.code : Order → BitVec 2 | .relaxed => 0 | .acq => 1 | .rel => 2 | .ar => 3
def Scope.code : Scope → BitVec 3 | .warp => 0 | .group => 1 | .die => 2 | .device => 3 | .system => 4
/-- MOD2 of a global access (R228). -/
def Sync.code (o : Sync) : BitVec 16 := 0#11 ++ o.scope.code ++ o.order.code
def FenceKind.code : FenceKind → BitVec 2 | .sc => 0 | .acq => 1 | .rel => 2 | .ar => 3
def AOp.code : AOp → BitVec 4
  | .add => 0 | .and => 1 | .or => 2 | .xor => 3 | .min => 4 | .max => 5 | .minu => 6 | .maxu => 7 | .xchg => 8
  | .cas => 9 | .fadd => 10 | .fmin => 11 | .fmax => 12
def BulkOp.code : BulkOp → BitVec 4
  | .add => 0 | .max => 1 | .min => 2 | .fadd => 3 | .fmax => 4 | .fmin => 5 | .fmul => 6 | .fma => 7 | .xms => 8
  | .fill => 9
/-- BF is legal with codes 3 to 7 only (R109). -/
def BulkOp.isFloat : BulkOp → Bool | .fadd | .fmax | .fmin | .fmul | .fma => true | _ => false
def XOp.code : XOp → BitVec 2 | .inter => 0 | .union => 1 | .diff => 2
def EstQ.code : EstQ → BitVec 2 | .rd => 0 | .wr => 1 | .clk => 2
def EstCmd.code : EstCmd → BitVec 3
  | .union => 0 | .inter => 1 | .diff => 2 | .copy => 3 | .export_ => 4 | .xinter => 5 | .xunion => 6 | .xdiff => 7
/-- The fields a proposed command of SET.EST uses (R149). -/
def EstCmd.usesB : EstCmd → Bool | .copy | .export_ => false | _ => true
def EstCmd.usesC : EstCmd → Bool | .union | .inter | .diff | .copy => true | _ => false
def SysReg.code : SysReg → BitVec 8
  | .fmode => 0 | .clk => 1 | .tvb => 2 | .tpc => 3 | .texec => 4 | .wloc => 5 | .cerr => 6 | .tqd => 7
/-- R312: RW registers, and those of handler mode only. -/
def SysReg.writable : SysReg → Bool | .fmode | .tvb | .tpc | .texec => true | _ => false
def SysReg.handlerOnly : SysReg → Bool | .tpc | .texec => true | _ => false

/-! Checks of single modifiers. -/

/-- MOD of a global access: IXS, SCALE and the row's bits 4:0 (R227). -/
def gmod (g : GAddr) (m : BitVec 5) : BitVec 8 := BitVec.ofBool g.ixs ++ g.scale ++ m
def bit4 (b : Bool) : BitVec 8 := 0#3 ++ BitVec.ofBool b ++ 0#4
/-- A vector result or data field of the access's width: a pair for `.64`. -/
def vw (w : Width) : DK := if w == .w64 then .ve else .v
/-- Widths of LD, LDU, LDF and LDL; of ST, STS and STL (R227, R109). -/
def Width.inLd : Width → Bool | .s32 => false | _ => true
def Width.inSt : Width → Bool | .w32 | .w64 | .u8 | .u16 => true | _ => false
/-- The orders the instruction admits; relaxed carries scope 000 (R228, R229). -/
def syncOk (o : Sync) (l : List Order) : Bool := l.contains o.order && (o.order != .relaxed || o.scope == .warp)
/-- SCALE and IXS against the class of B (R229). -/
def ixOk (g : GAddr) : Src → Bool
  | .vec .. => true
  | .sca _ => !g.ixs
  | _ => !g.ixs && g.scale == 0
/-- W64 admits codes 0 to 9 (R229). -/
def AOp.okGlobal (op : AOp) (w64 : Bool) : Bool := !w64 || decide (op.code < 10)
def AOp.okRed : AOp → Bool | .xchg | .cas => false | _ => true
/-- ATOML has codes 0 to 10 (R109). -/
def AOp.okLocal : AOp → Bool | .fmin | .fmax => false | _ => true
/-- Formats of R58 that may meet, and the zero B field. -/
def cvtOk (dst src : Fmt) (b : Src) : Bool :=
  (if dst.isPair then src.isPair || src == .f32 else !src.isPair) && !(dst.isPair && src == .f32 && b == Src.zero)
/-- MX formats of CPYT (R65, R86). -/
def isMx (f : BitVec 4) : Bool := decide (5 ≤ f.toNat) && decide (f.toNat ≤ 9)

/-- The row of the encoding tables (R58, R59, R86, R109, R140, R167, R202, R227, R258, R307) that a W or E word of this
instruction follows. The model's choices (log 29): field B of MOVTA.v takes a handler register through identity alone, and
the key and slot of TAGL, TAGI and TAGD take a vector, an IMM10 or a literal; anything else there has cause 0x03; field C of
BULK.XMS, whose operand R102 does not use, takes what R109 gives the field of every BULK, a scalar or an IMM10. -/
def Instr.sig : Instr → Option (Ops × Sig)
  | .nop f => some (f, ⟨0x01, 0, .none, .z, .z, .z, 0, 0, .any, fun _ => true⟩)
  | .exit f => some (f, ⟨0x02, 0, .none, .z, .z, .z, 0, 0, .any, fun _ => true⟩)
  | .jmp f => some (f, ⟨0x03, 0, .none, .siL, .z, .z, 0, 0, .any, fun _ => true⟩)
  | .call f => some (f, ⟨0x03, 1, .s, .siL, .z, .z, 0, 0, .any, fun _ => true⟩)
  | .calli f => some (f, ⟨0x04, 0, .s, .s, .z, .z, 0, 0, .any, fun _ => true⟩)
  | .ret f => some (f, ⟨0x04, 1, .none, .s, .z, .z, 0, 0, .any, fun _ => true⟩)
  | .br f => some (f, ⟨0x05, 0, .none, .siL, .siL, .z, 0, 0, .any, fun _ => true⟩)
  | .brAny f => some (f, ⟨0x05, 1, .none, .siL, .siL, .z, 0, 0, .any, fun _ => true⟩)
  | .brAll f => some (f, ⟨0x05, 2, .none, .siL, .siL, .z, 0, 0, .any, fun _ => true⟩)
  | .brNone f => some (f, ⟨0x05, 3, .none, .siL, .siL, .z, 0, 0, .any, fun _ => true⟩)
  | .bar f cohort => some (f, ⟨0x06, 0, .s, .siL, .z, .z, 0#4 ++ cohort, 0, .any, fun x => decide (cohort.toNat < x.coh) && x.member.getLsbD cohort.toNat && !x.handler⟩)
  | .await f => some (f, ⟨0x07, 0, .none, .siL, .si, .z, 0, 0, .any, fun _ => true⟩)
  | .bwait f => some (f, ⟨0x07, 1, .none, .s, .siL, .z, 0, 0, .any, fun x => !x.handler⟩)
  | .launch f => some (f, ⟨0x08, 0, .none, .s, .z, .z, 0, 0, .any, fun x => !x.handler⟩)
  | .join f => some (f, ⟨0x08, 1, .none, .s, .z, .z, 0, 0, .any, fun x => !x.handler⟩)
  | .yield f => some (f, ⟨0x09, 0, .none, .z, .z, .z, 0, 0, .any, fun _ => true⟩)
  | .sleep f => some (f, ⟨0x09, 1, .none, .siL, .z, .z, 0, 0, .any, fun _ => true⟩)
  | .sadd f => some (f, ⟨0x10, 0, .s, .siL, .siL, .z, 0, 0, .any, fun _ => true⟩)
  | .ssub f => some (f, ⟨0x10, 1, .s, .siL, .siL, .z, 0, 0, .any, fun _ => true⟩)
  | .smul f => some (f, ⟨0x10, 2, .s, .siL, .siL, .z, 0, 0, .any, fun _ => true⟩)
  | .smulh f => some (f, ⟨0x10, 3, .s, .siL, .siL, .z, 0, 0, .any, fun _ => true⟩)
  | .smulhu f => some (f, ⟨0x10, 4, .s, .siL, .siL, .z, 0, 0, .any, fun _ => true⟩)
  | .sand f => some (f, ⟨0x11, 0, .s, .siL, .siL, .z, 0, 0, .any, fun _ => true⟩)
  | .sor f => some (f, ⟨0x11, 1, .s, .siL, .siL, .z, 0, 0, .any, fun _ => true⟩)
  | .sxor f => some (f, ⟨0x11, 2, .s, .siL, .siL, .z, 0, 0, .any, fun _ => true⟩)
  | .sandn f => some (f, ⟨0x11, 3, .s, .siL, .siL, .z, 0, 0, .any, fun _ => true⟩)
  | .sshl f => some (f, ⟨0x12, 0, .s, .siL, .siL, .z, 0, 0, .any, fun _ => true⟩)
  | .sshr f => some (f, ⟨0x12, 1, .s, .siL, .siL, .z, 0, 0, .any, fun _ => true⟩)
  | .ssra f => some (f, ⟨0x12, 2, .s, .siL, .siL, .z, 0, 0, .any, fun _ => true⟩)
  | .srot f => some (f, ⟨0x12, 3, .s, .siL, .siL, .z, 0, 0, .any, fun _ => true⟩)
  | .smin f => some (f, ⟨0x13, 0, .s, .siL, .siL, .z, 0, 0, .any, fun _ => true⟩)
  | .smax f => some (f, ⟨0x13, 1, .s, .siL, .siL, .z, 0, 0, .any, fun _ => true⟩)
  | .sminu f => some (f, ⟨0x13, 2, .s, .siL, .siL, .z, 0, 0, .any, fun _ => true⟩)
  | .smaxu f => some (f, ⟨0x13, 3, .s, .siL, .siL, .z, 0, 0, .any, fun _ => true⟩)
  | .sdiv f => some (f, ⟨0x14, 0, .s, .siL, .siL, .z, 0, 0, .any, fun _ => true⟩)
  | .sdivu f => some (f, ⟨0x14, 1, .s, .siL, .siL, .z, 0, 0, .any, fun _ => true⟩)
  | .srem f => some (f, ⟨0x14, 2, .s, .siL, .siL, .z, 0, 0, .any, fun _ => true⟩)
  | .sremu f => some (f, ⟨0x14, 3, .s, .siL, .siL, .z, 0, 0, .any, fun _ => true⟩)
  | .scmpeq f => some (f, ⟨0x15, 0, .s, .siL, .siL, .z, 0, 0, .any, fun _ => true⟩)
  | .scmpne f => some (f, ⟨0x15, 1, .s, .siL, .siL, .z, 0, 0, .any, fun _ => true⟩)
  | .scmplt f => some (f, ⟨0x15, 2, .s, .siL, .siL, .z, 0, 0, .any, fun _ => true⟩)
  | .scmpltu f => some (f, ⟨0x15, 3, .s, .siL, .siL, .z, 0, 0, .any, fun _ => true⟩)
  | .scmple f => some (f, ⟨0x15, 4, .s, .siL, .siL, .z, 0, 0, .any, fun _ => true⟩)
  | .scmpleu f => some (f, ⟨0x15, 5, .s, .siL, .siL, .z, 0, 0, .any, fun _ => true⟩)
  | .smov f => some (f, ⟨0x16, 0, .s, .siL, .z, .z, 0, 0, .any, fun _ => true⟩)
  | .ssel f => some (f, ⟨0x16, 1, .s, .siL, .siL, .si, 0, 0, .e0Only, fun _ => true⟩)
  | .spop f => some (f, ⟨0x16, 2, .s, .siL, .z, .z, 0, 0, .any, fun _ => true⟩)
  | .sclz f => some (f, ⟨0x16, 3, .s, .siL, .z, .z, 0, 0, .any, fun _ => true⟩)
  | .sctz f => some (f, ⟨0x16, 4, .s, .siL, .z, .z, 0, 0, .any, fun _ => true⟩)
  | .maskIf f => some (f, ⟨0x20, 0, .s, .siL, .z, .z, 0, 0, .any, fun _ => true⟩)
  | .maskElse f => some (f, ⟨0x20, 1, .s, .siL, .z, .z, 0, 0, .any, fun _ => true⟩)
  | .maskEnd f => some (f, ⟨0x20, 2, .s, .z, .z, .z, 0, 0, .any, fun _ => true⟩)
  | .maskLoop f => some (f, ⟨0x20, 3, .s, .siL, .z, .z, 0, 0, .any, fun _ => true⟩)
  | .ballot f => some (f, ⟨0x21, 0, .s, .viL, .z, .z, 0, 0, .any, fun _ => true⟩)
  | .mprefix f => some (f, ⟨0x21, 1, .v, .siL, .z, .z, 0, 0, .any, fun _ => true⟩)
  | .mfirst f => some (f, ⟨0x21, 2, .s, .siL, .z, .z, 0, 0, .any, fun _ => true⟩)
  | .exrd f => some (f, ⟨0x22, 0, .s, .z, .z, .z, 0, 0, .any, fun _ => true⟩)
  | .exwr f => some (f, ⟨0x22, 1, .none, .siL, .z, .z, 0, 0, .any, fun _ => true⟩)
  | .exand f => some (f, ⟨0x22, 2, .none, .siL, .z, .z, 0, 0, .any, fun _ => true⟩)
  | .exandn f => some (f, ⟨0x22, 3, .none, .siL, .z, .z, 0, 0, .any, fun _ => true⟩)
  | .add f => some (f, ⟨0x30, 0, .v, .viL, .viL, .z, 0, 0, .any, fun _ => true⟩)
  | .sub f => some (f, ⟨0x30, 1, .v, .viL, .viL, .z, 0, 0, .any, fun _ => true⟩)
  | .mul f => some (f, ⟨0x30, 2, .v, .viL, .viL, .z, 0, 0, .any, fun _ => true⟩)
  | .mulh f => some (f, ⟨0x30, 3, .v, .viL, .viL, .z, 0, 0, .any, fun _ => true⟩)
  | .mulhu f => some (f, ⟨0x30, 4, .v, .viL, .viL, .z, 0, 0, .any, fun _ => true⟩)
  | .mad f => some (f, ⟨0x30, 5, .v, .viL, .viL, .viL, 0, 0, .e0Only, fun _ => true⟩)
  | .adds f => some (f, ⟨0x30, 6, .v, .viL, .viL, .z, 0, 0, .any, fun _ => true⟩)
  | .subs f => some (f, ⟨0x30, 7, .v, .viL, .viL, .z, 0, 0, .any, fun _ => true⟩)
  | .addus f => some (f, ⟨0x30, 8, .v, .viL, .viL, .z, 0, 0, .any, fun _ => true⟩)
  | .subus f => some (f, ⟨0x30, 9, .v, .viL, .viL, .z, 0, 0, .any, fun _ => true⟩)
  | .and f => some (f, ⟨0x31, 0, .v, .viL, .viL, .z, 0, 0, .any, fun _ => true⟩)
  | .or f => some (f, ⟨0x31, 1, .v, .viL, .viL, .z, 0, 0, .any, fun _ => true⟩)
  | .xor f => some (f, ⟨0x31, 2, .v, .viL, .viL, .z, 0, 0, .any, fun _ => true⟩)
  | .andn f => some (f, ⟨0x31, 3, .v, .viL, .viL, .z, 0, 0, .any, fun _ => true⟩)
  | .shl f => some (f, ⟨0x32, 0, .v, .viL, .viL, .z, 0, 0, .any, fun _ => true⟩)
  | .shr f => some (f, ⟨0x32, 1, .v, .viL, .viL, .z, 0, 0, .any, fun _ => true⟩)
  | .sra f => some (f, ⟨0x32, 2, .v, .viL, .viL, .z, 0, 0, .any, fun _ => true⟩)
  | .rot f => some (f, ⟨0x32, 3, .v, .viL, .viL, .z, 0, 0, .any, fun _ => true⟩)
  | .min f => some (f, ⟨0x33, 0, .v, .viL, .viL, .z, 0, 0, .any, fun _ => true⟩)
  | .max f => some (f, ⟨0x33, 1, .v, .viL, .viL, .z, 0, 0, .any, fun _ => true⟩)
  | .minu f => some (f, ⟨0x33, 2, .v, .viL, .viL, .z, 0, 0, .any, fun _ => true⟩)
  | .maxu f => some (f, ⟨0x33, 3, .v, .viL, .viL, .z, 0, 0, .any, fun _ => true⟩)
  | .abs f => some (f, ⟨0x33, 4, .v, .viL, .z, .z, 0, 0, .any, fun _ => true⟩)
  | .neg f => some (f, ⟨0x33, 5, .v, .viL, .z, .z, 0, 0, .any, fun _ => true⟩)
  | .cmpeq f => some (f, ⟨0x34, 0, .s, .viL, .viL, .z, 0, 0, .any, fun _ => true⟩)
  | .cmpne f => some (f, ⟨0x34, 1, .s, .viL, .viL, .z, 0, 0, .any, fun _ => true⟩)
  | .cmplt f => some (f, ⟨0x34, 2, .s, .viL, .viL, .z, 0, 0, .any, fun _ => true⟩)
  | .cmpltu f => some (f, ⟨0x34, 3, .s, .viL, .viL, .z, 0, 0, .any, fun _ => true⟩)
  | .cmple f => some (f, ⟨0x34, 4, .s, .viL, .viL, .z, 0, 0, .any, fun _ => true⟩)
  | .cmpleu f => some (f, ⟨0x34, 5, .s, .viL, .viL, .z, 0, 0, .any, fun _ => true⟩)
  | .mov f => some (f, ⟨0x35, 0, .v, .viL, .z, .z, 0, 0, .any, fun _ => true⟩)
  | .sel f => some (f, ⟨0x35, 1, .v, .viL, .viL, .any, 0, 0, .e0Only, fun _ => true⟩)
  | .popc f => some (f, ⟨0x36, 0, .v, .viL, .z, .z, 0, 0, .any, fun _ => true⟩)
  | .clz f => some (f, ⟨0x36, 1, .v, .viL, .z, .z, 0, 0, .any, fun _ => true⟩)
  | .ctz f => some (f, ⟨0x36, 2, .v, .viL, .z, .z, 0, 0, .any, fun _ => true⟩)
  | .vidx f => some (f, ⟨0x40, 0, .v, .z, .z, .z, 0, 0, .any, fun _ => true⟩)
  | .vaff f => some (f, ⟨0x40, 1, .v, .siL, .siL, .z, 0, 0, .any, fun _ => true⟩)
  | .vtag f => some (f, ⟨0x41, 0, .s, .vId, .z, .z, 0, 0, .any, fun _ => true⟩)
  | .add64 f => some (f, ⟨0x42, 0, .ve, .veiL, .veiL, .z, 0, 0, .any, fun _ => true⟩)
  | .sub64 f => some (f, ⟨0x42, 1, .ve, .veiL, .veiL, .z, 0, 0, .any, fun _ => true⟩)
  | .shl64 f => some (f, ⟨0x42, 2, .ve, .veiL, .viL, .z, 0, 0, .any, fun _ => true⟩)
  | .shr64 f => some (f, ⟨0x42, 3, .ve, .veiL, .viL, .z, 0, 0, .any, fun _ => true⟩)
  | .div f => some (f, ⟨0x43, 0, .v, .viL, .viL, .z, 0, 0, .any, fun _ => true⟩)
  | .divu f => some (f, ⟨0x43, 1, .v, .viL, .viL, .z, 0, 0, .any, fun _ => true⟩)
  | .rem f => some (f, ⟨0x43, 2, .v, .viL, .viL, .z, 0, 0, .any, fun _ => true⟩)
  | .remu f => some (f, ⟨0x43, 3, .v, .viL, .viL, .z, 0, 0, .any, fun _ => true⟩)
  | .fadd f ty => some (f, ⟨0x50, 0, .v, .viL, .viL, .z, ty.code, 0, .any, fun _ => true⟩)
  | .fsub f ty => some (f, ⟨0x50, 1, .v, .viL, .viL, .z, ty.code, 0, .any, fun _ => true⟩)
  | .fmul f ty => some (f, ⟨0x50, 2, .v, .viL, .viL, .z, ty.code, 0, .any, fun _ => true⟩)
  | .fma f ty => some (f, ⟨0x50, 3, .v, .viL, .viL, .viL, ty.code, 0, .e0Only, fun _ => true⟩)
  | .fms f ty => some (f, ⟨0x50, 4, .v, .viL, .viL, .viL, ty.code, 0, .e0Only, fun _ => true⟩)
  | .fmin f ty => some (f, ⟨0x51, 0, .v, .viL, .viL, .z, ty.code, 0, .any, fun _ => true⟩)
  | .fmax f ty => some (f, ⟨0x51, 1, .v, .viL, .viL, .z, ty.code, 0, .any, fun _ => true⟩)
  | .fabs f ty => some (f, ⟨0x51, 2, .v, .viL, .z, .z, ty.code, 0, .any, fun _ => true⟩)
  | .fneg f ty => some (f, ⟨0x51, 3, .v, .viL, .z, .z, ty.code, 0, .any, fun _ => true⟩)
  | .fcopys f ty => some (f, ⟨0x51, 4, .v, .viL, .viL, .z, ty.code, 0, .any, fun _ => true⟩)
  | .fcmpeq f => some (f, ⟨0x52, 0, .s, .viL, .viL, .z, 0, 0, .any, fun _ => true⟩)
  | .fcmpne f => some (f, ⟨0x52, 1, .s, .viL, .viL, .z, 0, 0, .any, fun _ => true⟩)
  | .fcmplt f => some (f, ⟨0x52, 2, .s, .viL, .viL, .z, 0, 0, .any, fun _ => true⟩)
  | .fcmple f => some (f, ⟨0x52, 3, .s, .viL, .viL, .z, 0, 0, .any, fun _ => true⟩)
  | .fcmpun f => some (f, ⟨0x52, 4, .s, .viL, .viL, .z, 0, 0, .any, fun _ => true⟩)
  | .frnd f ty => some (f, ⟨0x60, 0, .v, .viL, .z, .z, ty.code, 0, .any, fun _ => true⟩)
  | .ffloor f ty => some (f, ⟨0x60, 1, .v, .viL, .z, .z, ty.code, 0, .any, fun _ => true⟩)
  | .fceil f ty => some (f, ⟨0x60, 2, .v, .viL, .z, .z, ty.code, 0, .any, fun _ => true⟩)
  | .ftrunc f ty => some (f, ⟨0x60, 3, .v, .viL, .z, .z, ty.code, 0, .any, fun _ => true⟩)
  | .fclass f => some (f, ⟨0x61, 0, .v, .viL, .z, .z, 0, 0, .any, fun _ => true⟩)
  | .cvt f dst src rnd sat => some (f, ⟨0x70, 0, .v, .any, (if dst.isPair && src == .f32 then .any else .z), .z, dst.code ++ src.code, 0#12 ++ BitVec.ofBool sat ++ RM.code rnd, .any, fun _ => cvtOk dst src f.b⟩)
  | .bfpk f m => some (f, ⟨0x71, 0, (.vBfp), .bfp, .z, .z, 0#4 ++ m.code, 0, .any, fun _ => true⟩)
  | .bfpu f m => some (f, ⟨0x71, 1, .v, .viL, .z, .z, 0#4 ++ m.code, 0, .any, fun _ => true⟩)
  | .exp2 f ty => some (f, ⟨0x80, 0, .v, .viL, .z, .z, ty.code, 0, .any, fun _ => true⟩)
  | .log2 f ty => some (f, ⟨0x80, 1, .v, .viL, .z, .z, ty.code, 0, .any, fun _ => true⟩)
  | .sinpi f ty => some (f, ⟨0x80, 2, .v, .viL, .z, .z, ty.code, 0, .any, fun _ => true⟩)
  | .cospi f ty => some (f, ⟨0x80, 3, .v, .viL, .z, .z, ty.code, 0, .any, fun _ => true⟩)
  | .rsq f ty => some (f, ⟨0x80, 4, .v, .viL, .z, .z, ty.code, 0, .any, fun _ => true⟩)
  | .rcp f ty => some (f, ⟨0x80, 5, .v, .viL, .z, .z, ty.code, 0, .any, fun _ => true⟩)
  | .sqrt f ty => some (f, ⟨0x80, 6, .v, .viL, .z, .z, ty.code, 0, .any, fun _ => true⟩)
  | .tanh f ty => some (f, ⟨0x80, 7, .v, .viL, .z, .z, ty.code, 0, .any, fun _ => true⟩)
  | .sigm f ty => some (f, ⟨0x80, 8, .v, .viL, .z, .z, ty.code, 0, .any, fun _ => true⟩)
  | .act f bank ty => some (f, ⟨0x81, 0, .v, .viL, .z, .z, (bit4 bank) ||| ty.code, 0, .any, fun _ => true⟩)
  | .actld f bank => some (f, ⟨0x81, 1, .none, .siL, .z, .z, bit4 bank, 0, .any, fun _ => true⟩)
  | .vperm f => some (f, ⟨0x90, 0, .v, .vId, .viL, .z, 0, 0, .any, fun _ => true⟩)
  | .vscan f op excl => some (f, ⟨0x90, 1, .v, .viL, .z, .z, (bit4 excl) ||| op.code, 0, .any, fun _ => true⟩)
  | .vsort f key dsc => some (f, ⟨0x91, 0, .v, .viL, .z, .z, (bit4 dsc) ||| key.code, 0, .any, fun _ => true⟩)
  | .vsortkv f key dsc => some (f, ⟨0x91, 1, .ve, .viL, .viL, .z, (bit4 dsc) ||| key.code, 0, .any, fun _ => true⟩)
  | .vargmax f key => some (f, ⟨0x91, 2, .s, .viL, .z, .z, key.code, 0, .any, fun _ => true⟩)
  | .ld f g w o => some (f, ⟨0xA0, 0, (vw w), .vs, .any, .off, gmod g (0#2 ++ w.code), o.code, .any, fun _ => ixOk g f.b && syncOk o [.relaxed, .acq] && w.inLd⟩)
  | .st f g w o => some (f, ⟨0xA0, 1, (vw w), .vs, .any, .off, gmod g (0#2 ++ w.code), o.code, .any, fun _ => ixOk g f.b && syncOk o [.relaxed, .rel] && w.inSt⟩)
  | .lds f g w o => some (f, ⟨0xA1, 0, .s, .s, .siL, .off, gmod g (0#2 ++ w.code), o.code, .any, fun _ => ixOk g f.b && syncOk o [.relaxed, .acq]⟩)
  | .sts f g w o => some (f, ⟨0xA1, 1, .s, .s, .siL, .off, gmod g (0#2 ++ w.code), o.code, .any, fun _ => ixOk g f.b && syncOk o [.relaxed, .rel] && w.inSt⟩)
  | .ldu f g w o => some (f, ⟨0xA2, 0, (vw w), .vs, .any, .off, gmod g (0#2 ++ w.code), o.code, .any, fun _ => ixOk g f.b && syncOk o [.relaxed, .acq] && w.inLd⟩)
  | .ldf f g w o => some (f, ⟨0xA2, 1, (vw w), .vs, .any, .off, gmod g (0#2 ++ w.code), o.code, .any, fun _ => ixOk g f.b && syncOk o [.relaxed, .acq] && w.inLd⟩)
  | .pref f g => some (f, ⟨0xA2, 2, .none, .vs, .any, .off, gmod g 0, 0, .any, fun _ => ixOk g f.b⟩)
  | .atom f g op w64 o => some (f, ⟨0xA3, 0, (if w64 then .ve else .v), .vs, .any, (if w64 then .veiL else .viL), gmod g (BitVec.ofBool w64 ++ op.code), o.code, .e0Only, fun _ => ixOk g f.b && op.okGlobal w64 && syncOk o [.relaxed, .acq, .rel, .ar]⟩)
  | .red f g op w64 o => some (f, ⟨0xA3, 1, .none, .vs, .any, (if w64 then .veiL else .viL), gmod g (BitVec.ofBool w64 ++ op.code), o.code, .e0Only, fun _ => ixOk g f.b && op.okGlobal w64 && syncOk o [.relaxed, .rel] && op.okRed⟩)
  | .fence f kind scope => some (f, ⟨0xA4, 0, .none, .z, .z, .z, 0#3 ++ scope.code ++ kind.code, 0, .wOnly, fun _ => true⟩)
  | .ldl f w => some (f, ⟨0xB0, 0, (vw w), .any, .z, .off, 0#5 ++ w.code, 0, .any, fun _ => w.inLd⟩)
  | .stl f w => some (f, ⟨0xB0, 1, .none, .any, (if w == .w64 then .ve else .v), .off, 0#5 ++ w.code, 0, .any, fun _ => w.inSt⟩)
  | .atoml f op o => some (f, ⟨0xB0, 2, .v, .any, .v, .off, o.code ++ 0#2 ++ op.code, 0, .any, fun _ => op.okLocal⟩)
  | .bnkAdd f row => some (f, ⟨0xB1, 0, .none, (if row then .anySi else .any), .any, (if row then .z else .off), BitVec.ofBool row ++ 0#2 ++ 0#1 ++ 0#2 ++ 0#2, 0, .any, fun _ => true⟩)
  | .bnkMax f row => some (f, ⟨0xB1, 0, .none, (if row then .anySi else .any), .any, (if row then .z else .off), BitVec.ofBool row ++ 0#2 ++ 0#1 ++ 0#2 ++ 1#2, 0, .any, fun _ => true⟩)
  | .bnkMin f row => some (f, ⟨0xB1, 0, .none, (if row then .anySi else .any), .any, (if row then .z else .off), BitVec.ofBool row ++ 0#2 ++ 0#1 ++ 0#2 ++ 2#2, 0, .any, fun _ => true⟩)
  | .bnkFadd f row bf => some (f, ⟨0xB1, 1, .none, (if row then .anySi else .any), .any, (if row then .z else .off), BitVec.ofBool row ++ 0#2 ++ BitVec.ofBool bf ++ 0#2 ++ 0#2, 0, .any, fun _ => true⟩)
  | .bnkFmax f row bf => some (f, ⟨0xB1, 2, .none, (if row then .anySi else .any), .any, (if row then .z else .off), BitVec.ofBool row ++ 0#2 ++ BitVec.ofBool bf ++ 0#2 ++ 0#2, 0, .any, fun _ => true⟩)
  | .bnkFmin f row bf => some (f, ⟨0xB1, 2, .none, (if row then .anySi else .any), .any, (if row then .z else .off), BitVec.ofBool row ++ 0#2 ++ BitVec.ofBool bf ++ 0#2 ++ 1#2, 0, .any, fun _ => true⟩)
  | .bnkFmul f row bf => some (f, ⟨0xB1, 3, .none, (if row then .anySi else .any), .any, (if row then .z else .off), BitVec.ofBool row ++ 0#2 ++ BitVec.ofBool bf ++ 0#2 ++ 0#2, 0, .any, fun _ => true⟩)
  | .bnkFma f row bf => some (f, ⟨0xB1, 4, .none, (if row then .anySi else .any), .any, .any, BitVec.ofBool row ++ 0#2 ++ BitVec.ofBool bf ++ 0#2 ++ 0#2, 0, .e0Only, fun _ => true⟩)
  | .bnkXms f row => some (f, ⟨0xB1, 5, .none, (if row then .anySi else .any), .any, (if row then .z else .off), BitVec.ofBool row ++ 0#2 ++ 0#1 ++ 0#2 ++ 0#2, 0, .any, fun _ => true⟩)
  | .bnkCas f row => some (f, ⟨0xB1, 6, .v, (if row then .anySi else .any), .any, .any, BitVec.ofBool row ++ 0#2 ++ 0#1 ++ 0#2 ++ 0#2, 0, .e0Only, fun _ => true⟩)
  | .bnkXchg f row => some (f, ⟨0xB1, 7, .v, (if row then .anySi else .any), .any, (if row then .z else .off), BitVec.ofBool row ++ 0#2 ++ 0#1 ++ 0#2 ++ 0#2, 0, .any, fun _ => true⟩)
  | .bnkFill f row => some (f, ⟨0xB1, 8, .none, (if row then .anySi else .any), .any, (if row then .z else .off), BitVec.ofBool row ++ 0#2 ++ 0#1 ++ 0#2 ++ 0#2, 0, .any, fun _ => true⟩)
  | .bulk f op shape bf obj => some (f, ⟨0xB2, 0, (if op == .fma || op == .xms then .s else .none), .any, .any, .si, 0#2 ++ BitVec.ofBool shape ++ BitVec.ofBool bf ++ op.code, obj, .e0Only, fun _ => !bf || op.isFloat⟩)
  | .bcpy f rt obj => some (f, ⟨0xB2, 1, .none, .any, .any, .any, 0#6 ++ rt, obj, .e0Only, fun _ => true⟩)
  | .tagl f => some (f, ⟨0xB3, 0, .v, .viL, .z, .z, 0, 0, .any, fun _ => true⟩)
  | .tagi f => some (f, ⟨0xB3, 1, .v, .viL, .viL, .z, 0, 0, .any, fun _ => true⟩)
  | .tagd f => some (f, ⟨0xB3, 2, .v, .viL, .z, .z, 0, 0, .any, fun _ => true⟩)
  | .cpy f q srcLocal dstLocal => some (f, ⟨0xC0, 0, .s, .s, .si, .si, 0#1 ++ q ++ 0#2 ++ BitVec.ofBool srcLocal ++ BitVec.ofBool dstLocal, 0, .e0Only, fun _ => true⟩)
  | .cpyt f out q fmt pitch centre transpose => some (f, ⟨0xC0, 1, .t, .s, .siL, (if isMx fmt then .s else .z), BitVec.ofBool out ++ q ++ fmt, pitch ++ BitVec.ofBool centre ++ BitVec.ofBool transpose, .any, fun _ => !centre || fmt == 11⟩)
  | .gath f q => some (f, ⟨0xC0, 2, .none, .siL, .siL, .z, 0#1 ++ q ++ 0#4, 0, .any, fun _ => true⟩)
  | .scat f q => some (f, ⟨0xC0, 3, .none, .siL, .siL, .z, 0#1 ++ q ++ 0#4, 0, .any, fun _ => true⟩)
  | .scatRed f q => some (f, ⟨0xC0, 4, .none, .siL, .siL, .z, 0#1 ++ q ++ 0#4, 0, .any, fun _ => true⟩)
  | .qfence f hasObj q => some (f, ⟨0xC0, 5, .none, .siL, (if hasObj then .siL else .z), .z, BitVec.ofBool hasObj ++ q ++ 0#4, 0, .any, fun _ => true⟩)
  | .arvInit f => some (f, ⟨0xC1, 0, .none, .siL, .siL, .z, 0, 0, .any, fun _ => true⟩)
  | .arvAdd f flags => some (f, ⟨0xC1, 1, .none, .siL, .siL, .z, 0#5 ++ flags, 0, .any, fun _ => true⟩)
  | .arvExp f => some (f, ⟨0xC1, 2, .s, .siL, .siL, .z, 0, 0, .any, fun _ => true⟩)
  | .decSub f => some (f, ⟨0xC2, 0, .s, .s, .siL, .z, 0, 0, .any, fun _ => true⟩)
  | .decStat f => some (f, ⟨0xC2, 1, .s, .siL, .z, .z, 0, 0, .any, fun _ => true⟩)
  | .tdset f rdy m => some (f, ⟨0xD0, 0, .t, .siL, .siL, .z, 0#3 ++ BitVec.ofBool rdy ++ m.code, 0, .any, fun _ => true⟩)
  | .tdget f => some (f, ⟨0xD0, 1, .s, .t, .z, .z, 0, 0, .any, fun _ => true⟩)
  | .tfree f => some (f, ⟨0xD0, 2, .none, .t, .z, .z, 0, 0, .any, fun _ => true⟩)
  | .mma f => some (f, ⟨0xD1, 0, .t, .t, .t, .z, 0, 0, .any, fun _ => true⟩)
  | .mmaSp f => some (f, ⟨0xD1, 1, .t, .t, .t, .z, 0, 0, .any, fun _ => true⟩)
  | .accz f => some (f, ⟨0xD2, 0, .t, .z, .z, .z, 0, 0, .any, fun _ => true⟩)
  | .accl f => some (f, ⟨0xD3, 0, .t, .siL, .z, .z, 0, 0, .any, fun _ => true⟩)
  | .accr f g => some (f, ⟨0xD3, 1, .v, .t, .viL, .z, 0#6 ++ g, 0, .any, fun x => decide (g.toNat * x.width < 64)⟩)
  | .accd f tr => some (f, ⟨0xD3, 2, .t, .t, .siL, (if tr then .t else .z), 0#7 ++ BitVec.ofBool tr, 0, if tr then .e0Only else .any, fun _ => true⟩)
  | .setIns f => some (f, ⟨0xE0, 0, .v, .s, .viL, .z, 0, 0, .any, fun _ => true⟩)
  | .setDel f => some (f, ⟨0xE0, 1, .v, .s, .viL, .z, 0, 0, .any, fun _ => true⟩)
  | .setTest f => some (f, ⟨0xE0, 2, .v, .s, .viL, .z, 0, 0, .any, fun _ => true⟩)
  | .setCard f w64 => some (f, ⟨0xE0, 3, (if w64 then .ve else .v), .s, .z, .z, 0#7 ++ BitVec.ofBool w64, 0, .any, fun _ => true⟩)
  | .setRank f => some (f, ⟨0xE1, 0, .v, .s, .viL, .z, 0, 0, .any, fun _ => true⟩)
  | .setSel f => some (f, ⟨0xE1, 1, .v, .s, .viL, .z, 0, 0, .any, fun _ => true⟩)
  | .setNext f => some (f, ⟨0xE1, 2, .v, .s, .viL, .z, 0, 0, .any, fun _ => true⟩)
  | .setUnion f => some (f, ⟨0xE2, 0, .s, .s, .s, .si, 0, 0, .e0Only, fun _ => true⟩)
  | .setInter f => some (f, ⟨0xE2, 1, .s, .s, .s, .si, 0, 0, .e0Only, fun _ => true⟩)
  | .setDiff f => some (f, ⟨0xE2, 2, .s, .s, .s, .si, 0, 0, .e0Only, fun _ => true⟩)
  | .setXcard f op => some (f, ⟨0xE2, 3, .s, .s, .s, .si, 0#6 ++ op.code, 0, .e0Only, fun _ => true⟩)
  | .setCopy f => some (f, ⟨0xE2, 4, .s, .s, .z, .si, 0, 0, .e0Only, fun _ => true⟩)
  | .setImport f repl => some (f, ⟨0xE2, 5, .s, .s, .si, .si, 0#7 ++ BitVec.ofBool repl, 0, .e0Only, fun _ => true⟩)
  | .setExport f => some (f, ⟨0xE2, 6, .s, .s, .si, .si, 0, 0, .e0Only, fun _ => true⟩)
  | .setNew f hint => some (f, ⟨0xE3, 0, .s, .siL, (if hint then .siL else .z), .z, 0#7 ++ BitVec.ofBool hint, 0, .any, fun _ => true⟩)
  | .setFree f => some (f, ⟨0xE3, 1, .none, .s, .z, .z, 0, 0, .any, fun _ => true⟩)
  | .setClear f => some (f, ⟨0xE3, 2, .none, .s, .z, .z, 0, 0, .any, fun _ => true⟩)
  | .setPin f on => some (f, ⟨0xE3, 3, .s, .s, .z, .z, 0#7 ++ BitVec.ofBool on, 0, .any, fun _ => true⟩)
  | .setRep f => some (f, ⟨0xE3, 4, .s, .s, .siL, .z, 0, 0, .any, fun _ => true⟩)
  | .setCost f => some (f, ⟨0xE4, 0, .s, .s, .siL, .z, 0, 0, .any, fun _ => true⟩)
  | .setEst f q cmd => some (f, ⟨0xE4, 1, .s, .s, (if cmd.usesB then .s else .z), (if cmd.usesC then .s else .z), q.code ++ 0#3 ++ cmd.code, 0, .e0Only, fun _ => true⟩)
  | .trap f => some (f, ⟨0xF8, 0, .none, .siL, .z, .z, 0, 0, .any, fun _ => true⟩)
  | .bkpt f => some (f, ⟨0xF8, 1, .none, .siL, .z, .z, 0, 0, .any, fun _ => true⟩)
  | .rett f => some (f, ⟨0xF8, 2, .none, .z, .z, .z, 0, 0, .any, fun x => x.handler⟩)
  | .movfa f cls => some (f, ⟨0xF9, 0, (if cls then .s else .v), .siL, .z, .z, 0#7 ++ BitVec.ofBool cls, 0, .any, fun x => x.handler⟩)
  | .movta f cls => some (f, ⟨0xF9, 1, .none, .siL, (if cls then .s else .vId), .z, 0#7 ++ BitVec.ofBool cls, 0, .any, fun x => x.handler⟩)
  | .sysr f r => some (f, ⟨0xFA, 0, .s, .z, .z, .z, r.code, 0, .any, fun x => x.handler || !r.handlerOnly⟩)
  | .sysw f r => some (f, ⟨0xFA, 1, .none, .siL, .z, .z, r.code, 0, .any, fun x => (x.handler || !r.handlerOnly) && r.writable⟩)
  | .icinv f => some (f, ⟨0xFB, 0, .none, .z, .z, .z, 0, 0, .any, fun _ => true⟩)
  | _ => none

/-- The row of R25 that a C-form word of this instruction follows. -/
def Instr.csig : Instr → Option (COps × CSig)
  | .nopC f => some (f, ⟨0x01, 0, .none, .none, .none⟩)
  | .exitC f => some (f, ⟨0x02, 0, .none, .none, .none⟩)
  | .calliC f => some (f, ⟨0x04, 0, .s, .s, .none⟩)
  | .retC f => some (f, ⟨0x04, 1, .none, .s, .none⟩)
  | .yieldC f => some (f, ⟨0x09, 0, .none, .none, .none⟩)
  | .sleepC f => some (f, ⟨0x09, 1, .none, .s, .none⟩)
  | .saddC f => some (f, ⟨0x10, 0, .s, .s, .s⟩)
  | .ssubC f => some (f, ⟨0x10, 1, .s, .s, .s⟩)
  | .smulC f => some (f, ⟨0x10, 2, .s, .s, .s⟩)
  | .smulhC f => some (f, ⟨0x10, 3, .s, .s, .s⟩)
  | .sandC f => some (f, ⟨0x11, 0, .s, .s, .s⟩)
  | .sorC f => some (f, ⟨0x11, 1, .s, .s, .s⟩)
  | .sxorC f => some (f, ⟨0x11, 2, .s, .s, .s⟩)
  | .sandnC f => some (f, ⟨0x11, 3, .s, .s, .s⟩)
  | .sshlC f => some (f, ⟨0x12, 0, .s, .s, .s⟩)
  | .sshrC f => some (f, ⟨0x12, 1, .s, .s, .s⟩)
  | .ssraC f => some (f, ⟨0x12, 2, .s, .s, .s⟩)
  | .srotC f => some (f, ⟨0x12, 3, .s, .s, .s⟩)
  | .sminC f => some (f, ⟨0x13, 0, .s, .s, .s⟩)
  | .smaxC f => some (f, ⟨0x13, 1, .s, .s, .s⟩)
  | .sminuC f => some (f, ⟨0x13, 2, .s, .s, .s⟩)
  | .smaxuC f => some (f, ⟨0x13, 3, .s, .s, .s⟩)
  | .sdivC f => some (f, ⟨0x14, 0, .s, .s, .s⟩)
  | .sdivuC f => some (f, ⟨0x14, 1, .s, .s, .s⟩)
  | .sremC f => some (f, ⟨0x14, 2, .s, .s, .s⟩)
  | .sremuC f => some (f, ⟨0x14, 3, .s, .s, .s⟩)
  | .scmpeqC f => some (f, ⟨0x15, 0, .s, .s, .s⟩)
  | .scmpneC f => some (f, ⟨0x15, 1, .s, .s, .s⟩)
  | .scmpltC f => some (f, ⟨0x15, 2, .s, .s, .s⟩)
  | .scmpltuC f => some (f, ⟨0x15, 3, .s, .s, .s⟩)
  | .smovC f => some (f, ⟨0x16, 0, .s, .s, .none⟩)
  | .spopC f => some (f, ⟨0x16, 2, .s, .s, .none⟩)
  | .sclzC f => some (f, ⟨0x16, 3, .s, .s, .none⟩)
  | .maskIfC f => some (f, ⟨0x20, 0, .s, .s, .none⟩)
  | .maskElseC f => some (f, ⟨0x20, 1, .s, .s, .none⟩)
  | .maskEndC f => some (f, ⟨0x20, 2, .s, .none, .none⟩)
  | .maskLoopC f => some (f, ⟨0x20, 3, .s, .s, .none⟩)
  | .exrdC f => some (f, ⟨0x22, 0, .s, .none, .none⟩)
  | .exwrC f => some (f, ⟨0x22, 1, .none, .s, .none⟩)
  | .exandC f => some (f, ⟨0x22, 2, .none, .s, .none⟩)
  | .exandnC f => some (f, ⟨0x22, 3, .none, .s, .none⟩)
  | .addC f => some (f, ⟨0x30, 0, .v, .v, .v⟩)
  | .subC f => some (f, ⟨0x30, 1, .v, .v, .v⟩)
  | .mulC f => some (f, ⟨0x30, 2, .v, .v, .v⟩)
  | .mulhC f => some (f, ⟨0x30, 3, .v, .v, .v⟩)
  | .andC f => some (f, ⟨0x31, 0, .v, .v, .v⟩)
  | .orC f => some (f, ⟨0x31, 1, .v, .v, .v⟩)
  | .xorC f => some (f, ⟨0x31, 2, .v, .v, .v⟩)
  | .andnC f => some (f, ⟨0x31, 3, .v, .v, .v⟩)
  | .shlC f => some (f, ⟨0x32, 0, .v, .v, .v⟩)
  | .shrC f => some (f, ⟨0x32, 1, .v, .v, .v⟩)
  | .sraC f => some (f, ⟨0x32, 2, .v, .v, .v⟩)
  | .rotC f => some (f, ⟨0x32, 3, .v, .v, .v⟩)
  | .minC f => some (f, ⟨0x33, 0, .v, .v, .v⟩)
  | .maxC f => some (f, ⟨0x33, 1, .v, .v, .v⟩)
  | .minuC f => some (f, ⟨0x33, 2, .v, .v, .v⟩)
  | .maxuC f => some (f, ⟨0x33, 3, .v, .v, .v⟩)
  | .cmpeqC f => some (f, ⟨0x34, 0, .s, .v, .v⟩)
  | .cmpneC f => some (f, ⟨0x34, 1, .s, .v, .v⟩)
  | .cmpltC f => some (f, ⟨0x34, 2, .s, .v, .v⟩)
  | .cmpltuC f => some (f, ⟨0x34, 3, .s, .v, .v⟩)
  | .movC f => some (f, ⟨0x35, 0, .v, .v, .none⟩)
  | .popcC f => some (f, ⟨0x36, 0, .v, .v, .none⟩)
  | .clzC f => some (f, ⟨0x36, 1, .v, .v, .none⟩)
  | .ctzC f => some (f, ⟨0x36, 2, .v, .v, .none⟩)
  | .vidxC f => some (f, ⟨0x40, 0, .v, .none, .none⟩)
  | .vaffC f => some (f, ⟨0x40, 1, .v, .s, .s⟩)
  | .vtagC f => some (f, ⟨0x41, 0, .s, .v, .none⟩)
  | .add64C f => some (f, ⟨0x42, 0, .ve, .ve, .ve⟩)
  | .sub64C f => some (f, ⟨0x42, 1, .ve, .ve, .ve⟩)
  | .shl64C f => some (f, ⟨0x42, 2, .ve, .ve, .v⟩)
  | .shr64C f => some (f, ⟨0x42, 3, .ve, .ve, .v⟩)
  | .divC f => some (f, ⟨0x43, 0, .v, .v, .v⟩)
  | .divuC f => some (f, ⟨0x43, 1, .v, .v, .v⟩)
  | .remC f => some (f, ⟨0x43, 2, .v, .v, .v⟩)
  | .remuC f => some (f, ⟨0x43, 3, .v, .v, .v⟩)
  | .faddC f => some (f, ⟨0x50, 0, .v, .v, .v⟩)
  | .fsubC f => some (f, ⟨0x50, 1, .v, .v, .v⟩)
  | .fmulC f => some (f, ⟨0x50, 2, .v, .v, .v⟩)
  | .fminC f => some (f, ⟨0x51, 0, .v, .v, .v⟩)
  | .fmaxC f => some (f, ⟨0x51, 1, .v, .v, .v⟩)
  | .fabsC f => some (f, ⟨0x51, 2, .v, .v, .none⟩)
  | .fnegC f => some (f, ⟨0x51, 3, .v, .v, .none⟩)
  | .fcmpeqC f => some (f, ⟨0x52, 0, .s, .v, .v⟩)
  | .fcmpneC f => some (f, ⟨0x52, 1, .s, .v, .v⟩)
  | .fcmpltC f => some (f, ⟨0x52, 2, .s, .v, .v⟩)
  | .fcmpleC f => some (f, ⟨0x52, 3, .s, .v, .v⟩)
  | .frndC f => some (f, ⟨0x60, 0, .v, .v, .none⟩)
  | .ffloorC f => some (f, ⟨0x60, 1, .v, .v, .none⟩)
  | .fceilC f => some (f, ⟨0x60, 2, .v, .v, .none⟩)
  | .ftruncC f => some (f, ⟨0x60, 3, .v, .v, .none⟩)
  | .fclassC f => some (f, ⟨0x61, 0, .v, .v, .none⟩)
  | .exp2C f => some (f, ⟨0x80, 0, .v, .v, .none⟩)
  | .log2C f => some (f, ⟨0x80, 1, .v, .v, .none⟩)
  | .sinpiC f => some (f, ⟨0x80, 2, .v, .v, .none⟩)
  | .cospiC f => some (f, ⟨0x80, 3, .v, .v, .none⟩)
  | .mmaC f => some (f, ⟨0xD1, 0, .t, .t, .t⟩)
  | .mmaSpC f => some (f, ⟨0xD1, 1, .t, .t, .t⟩)
  | .acczC f => some (f, ⟨0xD2, 0, .t, .none, .none⟩)
  | .setInsC f => some (f, ⟨0xE0, 0, .v, .s, .v⟩)
  | .setDelC f => some (f, ⟨0xE0, 1, .v, .s, .v⟩)
  | .setTestC f => some (f, ⟨0xE0, 2, .v, .s, .v⟩)
  | .setCardC f => some (f, ⟨0xE0, 3, .v, .s, .none⟩)
  | .setRankC f => some (f, ⟨0xE1, 0, .v, .s, .v⟩)
  | .setSelC f => some (f, ⟨0xE1, 1, .v, .s, .v⟩)
  | .setNextC f => some (f, ⟨0xE1, 2, .v, .s, .v⟩)
  | _ => none

/-! The checks of every word. -/

inductive URule where | forbidden | allowed | required
deriving DecidableEq, Repr

/-- Where U is permitted (R24), less the instructions of R167 and R229; BULK and BCPY require it (R109). -/
def uRule (op : BitVec 8) (x : Nat) : URule :=
  let o := op.toNat
  if o = 0xB2 then .required
  else if o = 0x41 ∨ o = 0x90 ∨ o = 0x91 ∨ (o = 0x81 ∧ x = 1) ∨ o = 0xA1 ∨ (o = 0xA2 ∧ x ≠ 1) then .forbidden
  else if (0x30 ≤ o ∧ o ≤ 0x43) ∨ (0x50 ≤ o ∧ o ≤ 0x61) ∨ o = 0x70 ∨ o = 0x71 ∨ o = 0x80 ∨ o = 0x81
    ∨ (0xA0 ≤ o ∧ o ≤ 0xA3) ∨ (0xB0 ≤ o ∧ o ≤ 0xB3) ∨ o = 0xE0 ∨ o = 0xE1 then .allowed
  else .forbidden
def URule.ok : URule → Bool → Bool
  | .forbidden, u => !u
  | .allowed, _ => true
  | .required, u => u

/-- The register is one the warp may name (R155; R294 in handler mode). -/
def DCtx.vOk (x : DCtx) (r : Reg) : Bool := decide (r.toNat < if x.handler then 8 else x.vregs)
def DCtx.sOk (x : DCtx) (r : Reg) : Bool :=
  if x.handler then decide (r.toNat < 16) else r == 0 || decide (r.toNat < x.sregs)
def DCtx.veOk (x : DCtx) (r : Reg) : Bool := decide (r.toNat % 2 = 0) && x.vOk r && x.vOk (r + 1)

/-- Field D against its class. -/
def DK.ok (x : DCtx) (r : Reg) : DK → Bool
  | .none => r == 0
  | .v => x.vOk r
  | .ve => x.veOk r
  | .s => x.sOk r
  | .t => decide (r.toNat < 16)
  | .vBfp => if x.width = 16 then x.veOk r else x.vOk r
/-- DC is 1 for a scalar and 0 otherwise. -/
def DK.dc : DK → Bool | .s => true | _ => false

/-- The patterns of R21 at the warp's width. -/
def Pat.ok (w : Nat) : Pat → Bool
  | .bfly p => decide (p.toNat < w)
  | .mir p => decide (p.toNat ≠ 0) && decide (2 ^ p.toNat ≤ w)
  | _ => true

def Src.isVec : Src → Bool | .vec .. => true | _ => false
def Src.isSca : Src → Bool | .sca _ => true | _ => false
def Src.isImm : Src → Bool | .imm _ => true | _ => false
def Src.isLit : Src → Bool | .lit _ => true | _ => false
def Src.isIdent : Src → Bool | .vec _ .ident => true | _ => false
/-- A register the warp may name, and a pattern of its width. -/
def Src.regOk (x : DCtx) : Src → Bool
  | .vec r p => x.vOk r && p.ok x.width
  | .sca r => x.sOk r
  | _ => true
/-- The pair of a 64-bit vector operand; other classes pass. -/
def Src.pairOk (x : DCtx) : Src → Bool
  | .vec r _ => x.veOk r
  | _ => true

/-- A source field against its class (R21, R30, and the family's table). The offset of a local address (`off`, R108)
lies in a scalar or an IMM10: that a vector there takes cause 0x03 is the model's choice (log 29). -/
def SK.ok (x : DCtx) (f : Src) : SK → Bool
  | .z => f == Src.zero
  | .s => f.isSca && f.regOk x
  | .si => (f.isSca || f.isImm) && f.regOk x
  | .siL | .anySi => !f.isVec && f.regOk x
  | .v => f.isVec && f.regOk x
  | .vi => (f.isVec || f.isImm) && f.regOk x
  | .viL => !f.isSca && f.regOk x
  | .ve => f.isVec && f.regOk x && f.pairOk x
  | .veiL => !f.isSca && f.regOk x && f.pairOk x
  | .vId => f.isIdent && f.regOk x
  | .vs => (f.isVec || f.isSca) && f.regOk x && f.pairOk x
  | .any => f.regOk x
  | .off => f == Src.zero || ((f.isSca || f.isImm) && f.regOk x)
  | .t => match f with
    | .vec r .ident => decide (r.toNat < 16)
    | _ => false
  | .bfp => !f.isSca && f.regOk x && (x.width != 16 || !f.isVec || (f.isIdent && f.pairOk x))

/-- The literals of a word against its form (R18): in an E form with L = 1 exactly one of A and B is the literal,
elsewhere none is; only an E form with L = 0 has a field C and a MOD2. A FENCE is in the W form only (R227): that one in an
E form, with a zero third word too, takes cause 0x03 is the model's choice, since no rule names its cause (log 29). -/
def formOk (f : Ops) (g : Sig) : Bool :=
  (match f.form with
  | .eL => (f.a.isLit != f.b.isLit) && f.c == Src.zero && g.mod2 == 0
  | .e0 => !f.a.isLit && !f.b.isLit && !f.c.isLit
  | .w => !f.a.isLit && !f.b.isLit && f.c == Src.zero && g.mod2 == 0) &&
  (match g.form with
  | .any => true
  | .e0Only => f.form == .e0
  | .wOnly => f.form == .w)

/-- The decode checks of a W or E word that give cause 0x03. -/
def Sig.ok (x : DCtx) (f : Ops) (g : Sig) : Bool :=
  formOk f g && g.d.ok x f.d && g.a.ok x f.a && g.b.ok x f.b && g.c.ok x f.c && (uRule g.op g.x.toNat).ok f.u && g.extra x
/-- The same of a C-form word. -/
def CSig.ok (x : DCtx) (f : COps) (g : CSig) : Bool :=
  g.d.ok x f.d && g.a.ok x f.a && g.b.ok x f.b && (uRule g.op g.x.toNat).ok f.u

/-- The number of minors of each major of R25, in the W and E forms and in the C form (0: no such word). -/
def minors (op : BitVec 8) : Nat × Nat :=
  match op.toNat with
  | 0x01 => (1, 1)
  | 0x02 => (1, 1)
  | 0x03 => (2, 0)
  | 0x04 => (2, 2)
  | 0x05 => (4, 0)
  | 0x06 => (1, 0)
  | 0x07 => (2, 0)
  | 0x08 => (2, 0)
  | 0x09 => (2, 2)
  | 0x10 => (5, 4)
  | 0x11 => (4, 4)
  | 0x12 => (4, 4)
  | 0x13 => (4, 4)
  | 0x14 => (4, 4)
  | 0x15 => (6, 4)
  | 0x16 => (5, 4)
  | 0x20 => (4, 4)
  | 0x21 => (3, 0)
  | 0x22 => (4, 4)
  | 0x30 => (10, 4)
  | 0x31 => (4, 4)
  | 0x32 => (4, 4)
  | 0x33 => (6, 4)
  | 0x34 => (6, 4)
  | 0x35 => (2, 2)
  | 0x36 => (3, 3)
  | 0x40 => (2, 2)
  | 0x41 => (1, 1)
  | 0x42 => (4, 4)
  | 0x43 => (4, 4)
  | 0x50 => (5, 4)
  | 0x51 => (5, 4)
  | 0x52 => (5, 4)
  | 0x60 => (4, 4)
  | 0x61 => (1, 1)
  | 0x70 => (1, 0)
  | 0x71 => (2, 0)
  | 0x80 => (9, 4)
  | 0x81 => (2, 0)
  | 0x90 => (2, 0)
  | 0x91 => (3, 0)
  | 0xA0 => (2, 0)
  | 0xA1 => (2, 0)
  | 0xA2 => (3, 0)
  | 0xA3 => (2, 0)
  | 0xA4 => (1, 0)
  | 0xB0 => (3, 0)
  | 0xB1 => (9, 0)
  | 0xB2 => (2, 0)
  | 0xB3 => (3, 0)
  | 0xC0 => (6, 0)
  | 0xC1 => (3, 0)
  | 0xC2 => (2, 0)
  | 0xD0 => (3, 0)
  | 0xD1 => (2, 2)
  | 0xD2 => (1, 1)
  | 0xD3 => (3, 0)
  | 0xE0 => (4, 4)
  | 0xE1 => (3, 3)
  | 0xE2 => (7, 0)
  | 0xE3 => (5, 0)
  | 0xE4 => (2, 0)
  | 0xF8 => (3, 0)
  | 0xF9 => (2, 0)
  | 0xFA => (2, 0)
  | 0xFB => (1, 0)
  | _ => (0, 0)

/-- The first word's length code, major and minor (R12, R14, R28). -/
def Word.len (w : Word) : Nat := w.toNat % 4
def Word.major (w : Word) : BitVec 8 := w.extractLsb' 4 8
def Word.minor (w : Word) : Nat := if Word.len w = 0 then w.toNat / 2 ^ 12 % 4 else w.toNat / 2 ^ 12 % 16
/-- R27 and R25 of a first word. -/
def Word.emulated (w : Word) : Bool :=
  Word.len w != 3 && decide (0xF0 ≤ (Word.major w).toNat) && decide ((Word.major w).toNat ≤ 0xF7)
def Word.defined (w : Word) : Bool :=
  let m := minors (Word.major w)
  decide (Word.minor w < if Word.len w = 0 then m.2 else m.1)
/-- Words beyond the length are zero (R29). -/
def restZero (w0 w1 w2 : Word) : Bool := (Word.len w0 != 0 || w1 == 0) && (Word.len w0 == 2 || w2 == 0)

/-- An instruction that some words of a program encode and that passes the decode checks. The three rows of words that
are not instructions (R12, R26, R27) carry those words. A step of another agent has no encoding. -/
def Instr.wellFormed (x : DCtx) (i : Instr) : Bool :=
  match i with
  | .illegalLength w0 => Word.len w0 == 3
  | .emulatedOpcode w0 w1 w2 => Word.emulated w0 && restZero w0 w1 w2
  | .undefinedOpcode w0 w1 w2 =>
    Word.len w0 != 3 && !Word.emulated w0 && !Word.defined w0 && restZero w0 w1 w2
  | i =>
    match i.sig, i.csig with
    | some (f, g), _ => g.ok x f
    | none, some (f, g) => g.ok x f
    | none, none => false

end Sys2Proof
end

