-- ==== Sys2Proof/Decode.lean ====
section
/-! DEFINITION. The decoder of the instruction words (R12 to R28), total on any words, and the encoder, written from
the same tables. (`noncomputable` only says that Lean's runtime has no tags for an inductive of this many constructors;
every definition reduces in the kernel.) -/

namespace Sys2Proof

/-! Codes of the modifiers, read. -/

def FTy.of (m : BitVec 8) : Option FTy :=
  match (m.extractLsb' 0 2).toNat with | 0 => some .f32 | 1 => some .f16x2 | 2 => some .bf16x2 | _ => none
def KeyTy.of (m : BitVec 8) : Option KeyTy :=
  match (m.extractLsb' 0 2).toNat with | 0 => some .i32 | 1 => some .u32 | 2 => some .f32 | _ => none
def Fmt.of (c : BitVec 4) : Option Fmt :=
  [Fmt.f32, .f16, .bf16, .f16x2, .bf16x2, .e4m3, .e5m2, .i32, .u32, .i8, .u8, .i4][c.toNat]?
def RM.of (c : BitVec 3) : Option (Option RM) :=
  [none, some RM.rne, some .rtz, some .rup, some .rdn][c.toNat]?
def MCode.of (m : BitVec 8) : Option MCode :=
  match (m.extractLsb' 0 4).toNat with
  | 1 => some .m2 | 2 => some .m3 | 3 => some .m4 | 4 => some .m5 | 5 => some .m6 | 6 => some .m7 | 7 => some .m8
  | 15 => some .m16 | _ => none
def ScanOp.of (m : BitVec 8) : Option ScanOp :=
  [ScanOp.add, .max, .min, .fadd, .fmax, .fmin][(m.extractLsb' 0 3).toNat]?
def Width.of (m : BitVec 8) : Option Width :=
  [Width.w32, .w64, .u8, .s8, .u16, .s16, .s32][(m.extractLsb' 0 3).toNat]?
def Order.of (c : BitVec 2) : Order :=
  match c.toNat with | 0 => .relaxed | 1 => .acq | 2 => .rel | _ => .ar
def Scope.of (c : BitVec 3) : Option Scope := [Scope.warp, .group, .die, .device, .system][c.toNat]?
def Sync.of (m2 : BitVec 16) : Option Sync :=
  (Scope.of (m2.extractLsb' 2 3)).map fun sc => ⟨Order.of (m2.extractLsb' 0 2), sc⟩
def FenceKind.of (m : BitVec 8) : FenceKind :=
  match (m.extractLsb' 0 2).toNat with | 0 => .sc | 1 => .acq | 2 => .rel | _ => .ar
def AOp.of (m : BitVec 8) : Option AOp :=
  [AOp.add, .and, .or, .xor, .min, .max, .minu, .maxu, .xchg, .cas, .fadd, .fmin, .fmax][(m.extractLsb' 0 4).toNat]?
def BulkOp.of (m : BitVec 8) : Option BulkOp :=
  [BulkOp.add, .max, .min, .fadd, .fmax, .fmin, .fmul, .fma, .xms, .fill][(m.extractLsb' 0 4).toNat]?
def XOp.of (m : BitVec 8) : Option XOp := [XOp.inter, .union, .diff][(m.extractLsb' 0 2).toNat]?
def EstQ.of (m : BitVec 8) : Option EstQ := [EstQ.rd, .wr, .clk][(m.extractLsb' 6 2).toNat]?
def EstCmd.of (m : BitVec 8) : EstCmd :=
  match (m.extractLsb' 0 3).toNat with
  | 0 => .union | 1 => .inter | 2 => .diff | 3 => .copy | 4 => .export_ | 5 => .xinter | 6 => .xunion | _ => .xdiff
def SysReg.of (m : BitVec 8) : Option SysReg :=
  [SysReg.fmode, .clk, .tvb, .tpc, .texec, .wloc, .cerr, .tqd][m.toNat]?

def gaddrOf (m : BitVec 8) : GAddr := ⟨m.getLsbD 7, m.extractLsb' 5 2⟩
/-- The modifiers of a load or store (R227, R228). -/
def accessOf (m : BitVec 8) (m2 : BitVec 16) (mk : GAddr → Width → Sync → Instr) : Option Instr :=
  (Width.of m).bind fun w => (Sync.of m2).map fun o => mk (gaddrOf m) w o
/-- The modifiers of ATOM and RED. -/
def atomOf (m : BitVec 8) (m2 : BitVec 16) (mk : GAddr → AOp → Bool → Sync → Instr) : Option Instr :=
  (AOp.of m).bind fun op => (Sync.of m2).map fun o => mk (gaddrOf m) op (m.getLsbD 4) o
/-- The modifiers of CVT (R58). -/
def cvtOf (f : Ops) (m : BitVec 8) (m2 : BitVec 16) : Option Instr :=
  (Fmt.of (m.extractLsb' 4 4)).bind fun d => (Fmt.of (m.extractLsb' 0 4)).bind fun s =>
    (RM.of (m2.extractLsb' 0 3)).map fun r => .cvt f d s r (m2.getLsbD 3)
/-- The variants of BNK minor 0 (R112). -/
noncomputable def bnk0 (f : Ops) (m : BitVec 8) : Option Instr :=
  match (m.extractLsb' 0 2).toNat with
  | 0 => some (.bnkAdd f (m.getLsbD 7)) | 1 => some (.bnkMax f (m.getLsbD 7)) | 2 => some (.bnkMin f (m.getLsbD 7))
  | _ => none

/-- R25's table, a major's minors in order, W and E forms; `m` is MOD and `m2` MOD2. A reserved code gives none. -/
noncomputable def majorW (op : BitVec 8) (f : Ops) (m : BitVec 8) (m2 : BitVec 16) : List (Option Instr) :=
  match op.toNat with
  | 0x01 => [some (.nop f)]
  | 0x02 => [some (.exit f)]
  | 0x03 => [some (.jmp f), some (.call f)]
  | 0x04 => [some (.calli f), some (.ret f)]
  | 0x05 => [some (.br f), some (.brAny f), some (.brAll f), some (.brNone f)]
  | 0x06 => [some (.bar f (m.extractLsb' 0 4))]
  | 0x07 => [some (.await f), some (.bwait f)]
  | 0x08 => [some (.launch f), some (.join f)]
  | 0x09 => [some (.yield f), some (.sleep f)]
  | 0x10 => [some (.sadd f), some (.ssub f), some (.smul f), some (.smulh f), some (.smulhu f)]
  | 0x11 => [some (.sand f), some (.sor f), some (.sxor f), some (.sandn f)]
  | 0x12 => [some (.sshl f), some (.sshr f), some (.ssra f), some (.srot f)]
  | 0x13 => [some (.smin f), some (.smax f), some (.sminu f), some (.smaxu f)]
  | 0x14 => [some (.sdiv f), some (.sdivu f), some (.srem f), some (.sremu f)]
  | 0x15 => [some (.scmpeq f), some (.scmpne f), some (.scmplt f), some (.scmpltu f), some (.scmple f), some (.scmpleu f)]
  | 0x16 => [some (.smov f), some (.ssel f), some (.spop f), some (.sclz f), some (.sctz f)]
  | 0x20 => [some (.maskIf f), some (.maskElse f), some (.maskEnd f), some (.maskLoop f)]
  | 0x21 => [some (.ballot f), some (.mprefix f), some (.mfirst f)]
  | 0x22 => [some (.exrd f), some (.exwr f), some (.exand f), some (.exandn f)]
  | 0x30 => [some (.add f), some (.sub f), some (.mul f), some (.mulh f), some (.mulhu f), some (.mad f), some (.adds f), some (.subs f), some (.addus f), some (.subus f)]
  | 0x31 => [some (.and f), some (.or f), some (.xor f), some (.andn f)]
  | 0x32 => [some (.shl f), some (.shr f), some (.sra f), some (.rot f)]
  | 0x33 => [some (.min f), some (.max f), some (.minu f), some (.maxu f), some (.abs f), some (.neg f)]
  | 0x34 => [some (.cmpeq f), some (.cmpne f), some (.cmplt f), some (.cmpltu f), some (.cmple f), some (.cmpleu f)]
  | 0x35 => [some (.mov f), some (.sel f)]
  | 0x36 => [some (.popc f), some (.clz f), some (.ctz f)]
  | 0x40 => [some (.vidx f), some (.vaff f)]
  | 0x41 => [some (.vtag f)]
  | 0x42 => [some (.add64 f), some (.sub64 f), some (.shl64 f), some (.shr64 f)]
  | 0x43 => [some (.div f), some (.divu f), some (.rem f), some (.remu f)]
  | 0x50 => [(FTy.of m).map (.fadd f), (FTy.of m).map (.fsub f), (FTy.of m).map (.fmul f), (FTy.of m).map (.fma f), (FTy.of m).map (.fms f)]
  | 0x51 => [(FTy.of m).map (.fmin f), (FTy.of m).map (.fmax f), (FTy.of m).map (.fabs f), (FTy.of m).map (.fneg f), (FTy.of m).map (.fcopys f)]
  | 0x52 => [some (.fcmpeq f), some (.fcmpne f), some (.fcmplt f), some (.fcmple f), some (.fcmpun f)]
  | 0x60 => [(FTy.of m).map (.frnd f), (FTy.of m).map (.ffloor f), (FTy.of m).map (.fceil f), (FTy.of m).map (.ftrunc f)]
  | 0x61 => [some (.fclass f)]
  | 0x70 => [cvtOf f m m2]
  | 0x71 => [(MCode.of m).map (.bfpk f), (MCode.of m).map (.bfpu f)]
  | 0x80 => [(FTy.of m).map (.exp2 f), (FTy.of m).map (.log2 f), (FTy.of m).map (.sinpi f), (FTy.of m).map (.cospi f), (FTy.of m).map (.rsq f), (FTy.of m).map (.rcp f), (FTy.of m).map (.sqrt f), (FTy.of m).map (.tanh f), (FTy.of m).map (.sigm f)]
  | 0x81 => [(FTy.of m).map (.act f (m.getLsbD 4)), some (.actld f (m.getLsbD 4))]
  | 0x90 => [some (.vperm f), (ScanOp.of m).map (.vscan f · (m.getLsbD 4))]
  | 0x91 => [(KeyTy.of m).map (.vsort f · (m.getLsbD 4)), (KeyTy.of m).map (.vsortkv f · (m.getLsbD 4)), (KeyTy.of m).map (.vargmax f)]
  | 0xA0 => [accessOf m m2 (.ld f), accessOf m m2 (.st f)]
  | 0xA1 => [accessOf m m2 (.lds f), accessOf m m2 (.sts f)]
  | 0xA2 => [accessOf m m2 (.ldu f), accessOf m m2 (.ldf f), some (.pref f (gaddrOf m))]
  | 0xA3 => [atomOf m m2 (.atom f), atomOf m m2 (.red f)]
  | 0xA4 => [(Scope.of (m.extractLsb' 2 3)).map (.fence f (FenceKind.of m))]
  | 0xB0 => [(Width.of m).map (.ldl f), (Width.of m).map (.stl f), (AOp.of m).map (.atoml f · (Order.of (m.extractLsb' 6 2)))]
  | 0xB1 => [bnk0 f m, some (.bnkFadd f (m.getLsbD 7) (m.getLsbD 4)), some (if m.getLsbD 0 then .bnkFmin f (m.getLsbD 7) (m.getLsbD 4) else .bnkFmax f (m.getLsbD 7) (m.getLsbD 4)), some (.bnkFmul f (m.getLsbD 7) (m.getLsbD 4)), some (.bnkFma f (m.getLsbD 7) (m.getLsbD 4)), some (.bnkXms f (m.getLsbD 7)), some (.bnkCas f (m.getLsbD 7)), some (.bnkXchg f (m.getLsbD 7)), some (.bnkFill f (m.getLsbD 7))]
  | 0xB2 => [(BulkOp.of m).map (.bulk f · (m.getLsbD 5) (m.getLsbD 4) m2), some (.bcpy f (m.extractLsb' 0 2) m2)]
  | 0xB3 => [some (.tagl f), some (.tagi f), some (.tagd f)]
  | 0xC0 => [some (.cpy f (m.extractLsb' 4 3) (m.getLsbD 1) (m.getLsbD 0)), some (.cpyt f (m.getLsbD 7) (m.extractLsb' 4 3) (m.extractLsb' 0 4) (m2.extractLsb' 2 14) (m2.getLsbD 1) (m2.getLsbD 0)), some (.gath f (m.extractLsb' 4 3)), some (.scat f (m.extractLsb' 4 3)), some (.scatRed f (m.extractLsb' 4 3)), some (.qfence f (m.getLsbD 7) (m.extractLsb' 4 3))]
  | 0xC1 => [some (.arvInit f), some (.arvAdd f (m.extractLsb' 0 3)), some (.arvExp f)]
  | 0xC2 => [some (.decSub f), some (.decStat f)]
  | 0xD0 => [(MCode.of m).map (.tdset f (m.getLsbD 4)), some (.tdget f), some (.tfree f)]
  | 0xD1 => [some (.mma f), some (.mmaSp f)]
  | 0xD2 => [some (.accz f)]
  | 0xD3 => [some (.accl f), some (.accr f (m.extractLsb' 0 2)), some (.accd f (m.getLsbD 0))]
  | 0xE0 => [some (.setIns f), some (.setDel f), some (.setTest f), some (.setCard f (m.getLsbD 0))]
  | 0xE1 => [some (.setRank f), some (.setSel f), some (.setNext f)]
  | 0xE2 => [some (.setUnion f), some (.setInter f), some (.setDiff f), (XOp.of m).map (.setXcard f), some (.setCopy f), some (.setImport f (m.getLsbD 0)), some (.setExport f)]
  | 0xE3 => [some (.setNew f (m.getLsbD 0)), some (.setFree f), some (.setClear f), some (.setPin f (m.getLsbD 0)), some (.setRep f)]
  | 0xE4 => [some (.setCost f), (EstQ.of m).map (.setEst f · (EstCmd.of m))]
  | 0xF8 => [some (.trap f), some (.bkpt f), some (.rett f)]
  | 0xF9 => [some (.movfa f (m.getLsbD 0)), some (.movta f (m.getLsbD 0))]
  | 0xFA => [(SysReg.of m).map (.sysr f), (SysReg.of m).map (.sysw f)]
  | 0xFB => [some (.icinv f)]
  | _ => []

/-- R25's table for the C form; a three-source minor has no legal C word (R18). -/
noncomputable def majorC (op : BitVec 8) (f : COps) : List (Option Instr) :=
  match op.toNat with
  | 0x01 => [some (.nopC f)]
  | 0x02 => [some (.exitC f)]
  | 0x04 => [some (.calliC f), some (.retC f)]
  | 0x09 => [some (.yieldC f), some (.sleepC f)]
  | 0x10 => [some (.saddC f), some (.ssubC f), some (.smulC f), some (.smulhC f)]
  | 0x11 => [some (.sandC f), some (.sorC f), some (.sxorC f), some (.sandnC f)]
  | 0x12 => [some (.sshlC f), some (.sshrC f), some (.ssraC f), some (.srotC f)]
  | 0x13 => [some (.sminC f), some (.smaxC f), some (.sminuC f), some (.smaxuC f)]
  | 0x14 => [some (.sdivC f), some (.sdivuC f), some (.sremC f), some (.sremuC f)]
  | 0x15 => [some (.scmpeqC f), some (.scmpneC f), some (.scmpltC f), some (.scmpltuC f)]
  | 0x16 => [some (.smovC f), none, some (.spopC f), some (.sclzC f)]
  | 0x20 => [some (.maskIfC f), some (.maskElseC f), some (.maskEndC f), some (.maskLoopC f)]
  | 0x22 => [some (.exrdC f), some (.exwrC f), some (.exandC f), some (.exandnC f)]
  | 0x30 => [some (.addC f), some (.subC f), some (.mulC f), some (.mulhC f)]
  | 0x31 => [some (.andC f), some (.orC f), some (.xorC f), some (.andnC f)]
  | 0x32 => [some (.shlC f), some (.shrC f), some (.sraC f), some (.rotC f)]
  | 0x33 => [some (.minC f), some (.maxC f), some (.minuC f), some (.maxuC f)]
  | 0x34 => [some (.cmpeqC f), some (.cmpneC f), some (.cmpltC f), some (.cmpltuC f)]
  | 0x35 => [some (.movC f), none]
  | 0x36 => [some (.popcC f), some (.clzC f), some (.ctzC f)]
  | 0x40 => [some (.vidxC f), some (.vaffC f)]
  | 0x41 => [some (.vtagC f)]
  | 0x42 => [some (.add64C f), some (.sub64C f), some (.shl64C f), some (.shr64C f)]
  | 0x43 => [some (.divC f), some (.divuC f), some (.remC f), some (.remuC f)]
  | 0x50 => [some (.faddC f), some (.fsubC f), some (.fmulC f), none]
  | 0x51 => [some (.fminC f), some (.fmaxC f), some (.fabsC f), some (.fnegC f)]
  | 0x52 => [some (.fcmpeqC f), some (.fcmpneC f), some (.fcmpltC f), some (.fcmpleC f)]
  | 0x60 => [some (.frndC f), some (.ffloorC f), some (.fceilC f), some (.ftruncC f)]
  | 0x61 => [some (.fclassC f)]
  | 0x80 => [some (.exp2C f), some (.log2C f), some (.sinpiC f), some (.cospiC f)]
  | 0xD1 => [some (.mmaC f), some (.mmaSpC f)]
  | 0xD2 => [some (.acczC f)]
  | 0xE0 => [some (.setInsC f), some (.setDelC f), some (.setTestC f), some (.setCardC f)]
  | 0xE1 => [some (.setRankC f), some (.setSelC f), some (.setNextC f)]
  | _ => []

/-- An operand field (R19) with the checks of R21 that need no width; `lit` is the literal of an E form with L = 1. -/
def Src.parse (lit : Option Word) (h : BitVec 16) : Option Src :=
  let p := h.extractLsb' 10 6
  let r := h.extractLsb' 0 6
  if h.getLsbD 6 then
    if h.extractLsb' 7 3 = 0 ∧ p = 0 then some (.sca r) else none
  else match (h.extractLsb' 7 3).toNat with
    | 0 => if p = 0 then some (.vec r .ident) else none
    | 1 => some (.vec r (.rot p))
    | 2 => some (.vec r (.bc p))
    | 3 => some (.vec r (.bfly p))
    | 4 => some (.vec r (.mir p))
    | 6 => if p = 0 ∧ r = 0 then lit.map .lit else none
    | 7 => some (.imm (p ++ r))
    | _ => none

/-- The operand field of a source. -/
def Src.pack : Src → BitVec 16
  | .vec r .ident => 0#6 ++ 0#3 ++ 0#1 ++ r
  | .vec r (.rot p) => p ++ 1#3 ++ 0#1 ++ r
  | .vec r (.bc p) => p ++ 2#3 ++ 0#1 ++ r
  | .vec r (.bfly p) => p ++ 3#3 ++ 0#1 ++ r
  | .vec r (.mir p) => p ++ 4#3 ++ 0#1 ++ r
  | .sca r => 0#6 ++ 0#3 ++ 1#1 ++ r
  | .imm v => v.extractLsb' 6 6 ++ 7#3 ++ 0#1 ++ v.extractLsb' 0 6
  | .lit _ => 0#6 ++ 6#3 ++ 0#1 ++ 0#6

/-- A defined W or E word of `len` words (R17, R18), or none where a decode check fails. -/
noncomputable def decodeWide (x : DCtx) (w0 w1 w2 : Word) : Option Instr :=
  let l := w0.getLsbD 23
  let form : Form := if Word.len w0 = 1 then .w else if l then .eL else .e0
  let lit := if form = .eL then some w2 else none
  let m := w0.extractLsb' 24 8
  let m2 : BitVec 16 := if form = .e0 then w2.extractLsb' 16 16 else 0
  if form = .w ∧ l then none else
  (Src.parse lit (w1.extractLsb' 0 16)).bind fun a =>
  (Src.parse lit (w1.extractLsb' 16 16)).bind fun b =>
  (if form = .e0 then Src.parse none (w2.extractLsb' 0 16) else some Src.zero).bind fun c =>
  let f : Ops := ⟨form, w0.getLsbD 2, w0.getLsbD 3, w0.extractLsb' 16 6, a, b, c⟩
  ((majorW (Word.major w0) f m m2)[Word.minor w0]?.join).bind fun i =>
  match i.sig with
  | some (_, g) => if g.mod = m ∧ g.mod2 = m2 ∧ g.d.dc = w0.getLsbD 22 ∧ g.ok x f then some i else none
  | none => none

/-- A defined C-form word (R15). -/
noncomputable def decodeC (x : DCtx) (w0 : Word) : Option Instr :=
  let f : COps := ⟨w0.getLsbD 2, w0.getLsbD 3, w0.extractLsb' 14 6, w0.extractLsb' 20 6, w0.extractLsb' 26 6⟩
  ((majorC (Word.major w0) f)[Word.minor w0]?.join).bind fun i => if i.wellFormed x then some i else none

/-- What becomes of a list of words (R28): an instruction, or a rejection by name. -/
inductive Decoded where
  | ok (i : Instr)
  /-- a check of R18, R21, R22, R24 or of the family fails: cause 0x03 -/
  | illegalOperand
  /-- fewer words than the length code names -/
  | truncated
deriving DecidableEq, Repr

/-- The word list is as long as the first word's length code says. -/
def enough (w0 : Word) (rest : List Word) : Bool := Word.len w0 == 3 || decide (Word.len w0 ≤ rest.length)

/-- The order of R28 after fetch. -/
noncomputable def decode (x : DCtx) : List Word → Decoded
  | [] => .truncated
  | w0 :: rest =>
    if Word.len w0 = 3 then .ok (.illegalLength w0)
    else if rest.length < Word.len w0 then .truncated
    else
      let w1 := if Word.len w0 = 0 then 0 else rest.headD 0
      let w2 := if Word.len w0 = 2 then rest.tail.headD 0 else 0
      if Word.emulated w0 then .ok (.emulatedOpcode w0 w1 w2)
      else if !Word.defined w0 then .ok (.undefinedOpcode w0 w1 w2)
      else match if Word.len w0 = 0 then decodeC x w0 else decodeWide x w0 w1 w2 with
        | some i => .ok i
        | none => .illegalOperand

/-- The literal of an E form with L = 1. -/
def Ops.litWord (f : Ops) : Word :=
  match f.a, f.b with
  | .lit w, _ => w
  | _, .lit w => w
  | _, _ => 0

/-- The words of an instruction (R14 to R19); a step of another agent has none. -/
def encode (i : Instr) : List Word :=
  match i with
  | .illegalLength w0 => [w0]
  | .emulatedOpcode w0 w1 w2 => [w0, w1, w2].take (Word.len w0 + 1)
  | .undefinedOpcode w0 w1 w2 => [w0, w1, w2].take (Word.len w0 + 1)
  | i =>
    match i.sig, i.csig with
    | some (f, g), _ =>
      let len : BitVec 2 := if f.form = .w then 1 else 2
      let w0 : Word := g.mod ++ BitVec.ofBool (f.form == .eL) ++ BitVec.ofBool g.d.dc ++ f.d ++ g.x ++ g.op
        ++ BitVec.ofBool f.u ++ BitVec.ofBool f.s ++ len
      let w1 : Word := f.b.pack ++ f.a.pack
      match f.form with
      | .w => [w0, w1]
      | .e0 => [w0, w1, g.mod2 ++ f.c.pack]
      | .eL => [w0, w1, f.litWord]
    | none, some (f, g) =>
      [f.b ++ f.a ++ f.d ++ g.x ++ g.op ++ BitVec.ofBool f.u ++ BitVec.ofBool f.s ++ 0#2]
    | none, none => []

/-- Four bytes, least significant first (R7, R12). -/
def wordBytes (w : Word) : List Byte :=
  [w.extractLsb' 0 8, w.extractLsb' 8 8, w.extractLsb' 16 8, w.extractLsb' 24 8]
/-- The word of four bytes. -/
def wordOf (b0 b1 b2 b3 : Byte) : Word := b3 ++ b2 ++ b1 ++ b0
/-- The words of a byte string; a tail of fewer than four bytes is dropped. -/
def wordsOf : List Byte → List Word
  | b0 :: b1 :: b2 :: b3 :: r => wordOf b0 b1 b2 b3 :: wordsOf r
  | _ => []

/-- The three words of an instruction whose bits are `w`, bit 0 the least of the first word: every bit from `nbits`
on is 0. -/
def tableWords (nbits w : Nat) : List Word :=
  let v := w % 2 ^ nbits
  [BitVec.ofNat 32 v, BitVec.ofNat 32 (v / 2 ^ 32), BitVec.ofNat 32 (v / 2 ^ 64)]
/-- The instruction the decoder reads there, for a 64-lane warp in normal mode that declares every register. -/
noncomputable def decodeTableWord (nbits w : Nat) : Option Instr :=
  match decode {} (wordsOf ((tableWords nbits w).flatMap wordBytes)) with
  | .ok i => some i
  | _ => none

end Sys2Proof
end

