-- ==== Sys2Proof/Machine/Tab.lean ====
section
/-! DEFINITION. Sparse collections: reading, and writing in the one canonical form. -/

namespace Sys2Proof

variable {α : Type}

/-- What a key reads as: its entry, or the default `d` of an unlisted key. -/
def Tab.get (d : α) (k : Nat) : Tab α → α
  | [] => d
  | (j, v) :: r => if j = k then v else Tab.get d k r

/-- An entry in its place, keys rising. -/
def Tab.ins (k : Nat) (v : α) : Tab α → Tab α
  | [] => [(k, v)]
  | (j, u) :: r => if j < k then (j, u) :: Tab.ins k v r else if j = k then (k, v) :: r else (k, v) :: (j, u) :: r

/-- No entry of the key. -/
def Tab.del (k : Nat) (t : Tab α) : Tab α := t.filter (fun p => p.1 ≠ k)

/-- The collection with the key reading as `v`: no entry where `v` is the default. -/
def Tab.put [DecidableEq α] (d : α) (k : Nat) (v : α) (t : Tab α) : Tab α :=
  if v = d then Tab.del k t else Tab.ins k v t

/-- Keys strictly rise from above `lo`, and no entry is the default. -/
def Tab.wfFrom [DecidableEq α] (d : α) (lo : Nat) : Tab α → Bool
  | [] => true
  | (k, v) :: r => decide (lo ≤ k) && decide (v ≠ d) && Tab.wfFrom d (k + 1) r

/-- The canonical form. -/
def Tab.wf [DecidableEq α] (d : α) (t : Tab α) : Bool := Tab.wfFrom d 0 t

/-- `n` consecutive keys from `k`. -/
def Tab.getN (d : α) : (k n : Nat) → Tab α → List α
  | _, 0, _ => []
  | k, n + 1, t => Tab.get d k t :: Tab.getN d (k + 1) n t

/-- Consecutive keys from `k` written. -/
def Tab.putN [DecidableEq α] (d : α) : (k : Nat) → List α → Tab α → Tab α
  | _, [], t => t
  | k, v :: r, t => Tab.putN d (k + 1) r (Tab.put d k v t)

/-- The keys listed. -/
def Tab.keys (t : Tab α) : List Nat := t.map Prod.fst

/-- No entry with a key from `lo` to `hi - 1`. -/
def Tab.delRange (lo hi : Nat) (t : Tab α) : Tab α := t.filter (fun p => p.1 < lo || hi ≤ p.1)
/-- The entries with keys from `lo` to `hi - 1`. -/
def Tab.range (lo hi : Nat) (t : Tab α) : Tab α := t.filter (fun p => lo ≤ p.1 && p.1 < hi)

/-- Little-endian value of bytes (R7). -/
def leNat : List Byte → Nat
  | [] => 0
  | b :: r => b.toNat + 256 * leNat r
/-- The `n` little-endian bytes of a value. -/
def leBytes : (n v : Nat) → List Byte
  | 0, _ => []
  | n + 1, v => BitVec.ofNat 8 v :: leBytes n (v / 256)

end Sys2Proof
end

