-- ==== Sys2Proof/Machine/Float.lean ====
section
/-! DEFINITION. Exact float arithmetic and the one rounding (R45, R50 to R59, R177 to R179): every value is a dyadic, and
a result is rounded once. -/

namespace Sys2Proof.Machine

/-- A float value: `(-1)^neg * m * 2^e`, an infinity, or a NaN. `m = 0` is a signed zero. -/
inductive FV where
  | nan | inf (neg : Bool) | fin (neg : Bool) (m : Nat) (e : Int)
deriving DecidableEq, Repr

/-- A float format (R45): exponent and fraction widths, bias, the magnitude of the largest finite value, the infinity
if it has one, and the canonical NaN (R57). -/
structure FFmt where
  eb : Nat
  mb : Nat
  bias : Nat
  maxB : Nat
  inf : Option Nat
  nan : Nat
deriving DecidableEq, Repr

def F32 : FFmt := ⟨8, 23, 127, 0x7F7FFFFF, some 0x7F800000, 0x7FC00000⟩
def F16 : FFmt := ⟨5, 10, 15, 0x7BFF, some 0x7C00, 0x7E00⟩
def BF16 : FFmt := ⟨8, 7, 127, 0x7F7F, some 0x7F80, 0x7FC0⟩
def E4M3 : FFmt := ⟨4, 3, 7, 0x7E, none, 0x7F⟩
def E5M2 : FFmt := ⟨5, 2, 15, 0x7B, some 0x7C, 0x7E⟩
def E2M3 : FFmt := ⟨2, 3, 1, 0x1F, none, 0⟩
def E3M2 : FFmt := ⟨3, 2, 3, 0x1F, none, 0⟩
def E2M1 : FFmt := ⟨2, 1, 1, 0x7, none, 0⟩

/-- 2^(eb+mb): the sign bit's weight. -/
def FFmt.signW (f : FFmt) : Nat := 2 ^ (f.eb + f.mb)
/-- The exponent of the smallest step. -/
def FFmt.qmin (f : FFmt) : Int := 1 - (f.bias : Int) - (f.mb : Int)
def FFmt.neg (f : FFmt) (b : Nat) : Bool := b / f.signW % 2 = 1
def FFmt.mag (f : FFmt) (b : Nat) : Nat := b % f.signW
def FFmt.isNan (f : FFmt) (b : Nat) : Bool :=
  match f.inf with
  | some i => decide (i < f.mag b)
  | none => decide (f.maxB < f.mag b)
/-- A subnormal, zero excluded. -/
def FFmt.isSub (f : FFmt) (b : Nat) : Bool := f.mag b ≠ 0 && f.mag b < 2 ^ f.mb
/-- FTZ: a subnormal becomes a zero of its sign (R55). -/
def FFmt.flush (f : FFmt) (ftz : Bool) (b : Nat) : Nat :=
  if ftz && f.isSub b then (if f.neg b then f.signW else 0) else b

/-- The value of a pattern. -/
def FFmt.dec (f : FFmt) (b : Nat) : FV :=
  let g := f.mag b
  if f.isNan b then .nan
  else if f.inf = some g then .inf (f.neg b)
  else if g < 2 ^ f.mb then .fin (f.neg b) g f.qmin
  else .fin (f.neg b) (2 ^ f.mb + g % 2 ^ f.mb) (f.qmin + ((g / 2 ^ f.mb : Nat) : Int) - 1)

/-- Whether the magnitude rounds up: `r` is the part below one unit against half a unit, `odd` the unit's parity. -/
def roundUp (rm : RM) (neg odd : Bool) (r : Ordering) (exact : Bool) : Bool :=
  match rm with
  | .rne => r == .gt || (r == .eq && odd)
  | .rtz => false
  | .rup => !exact && !neg
  | .rdn => !exact && neg

/-- `m * 2^e` in whole units of `2^q` rounded by `rm`; `sticky` says that the value lies strictly above `m * 2^e` by
less than `2^e`, which the callers use only with `e < q - 1`. -/
def roundUnits (rm : RM) (neg : Bool) (m : Nat) (e q : Int) (sticky : Bool) : Nat :=
  if q ≤ e then m <<< (e - q).toNat
  else
    let d := (q - e).toNat
    if m.log2 + 2 < d then
      let exact := m = 0 && !sticky
      if roundUp rm neg false .lt exact then 1 else 0
    else
      let n := m >>> d
      let r := m - n <<< d
      let half := 1 <<< (d - 1)
      let c : Ordering := if r < half then .lt else if half < r || sticky then .gt else .eq
      if roundUp rm neg (n % 2 = 1) c (r = 0 && !sticky) then n + 1 else n

/-- What an overflow gives (R58, R177): infinity or the largest finite value by `rm`; with SAT the largest finite;
a format without infinity and with a NaN (E4M3) gives its NaN. -/
def FFmt.overflow (f : FFmt) (rm : RM) (neg sat : Bool) : Nat :=
  let s := if neg then f.signW else 0
  let away := match rm with | .rne => true | .rtz => false | .rup => !neg | .rdn => neg
  if away && !sat then (match f.inf with | some i => s + i | none => if f.nan = 0 then s + f.maxB else f.nan)
  else s + f.maxB

/-- A nonzero magnitude rounded to a format. -/
def FFmt.roundMag (f : FFmt) (rm : RM) (sat neg : Bool) (m : Nat) (e : Int) (sticky : Bool) : Nat :=
  let q := max (e + (m.log2 : Int) - (f.mb : Int)) f.qmin
  let top := e + (m.log2 : Int)
  if top > (f.bias : Int) + (2 ^ f.eb : Nat) then f.overflow rm neg sat
  else
    let n := roundUnits rm neg m e q sticky
    let b := (q - f.qmin).toNat * 2 ^ f.mb + n
    if f.maxB < b then f.overflow rm neg sat else (if neg then f.signW else 0) + b

/-- A value rounded once to a format. An infinity stays, with `sat` becomes the largest finite value; E4M3 has its NaN for
it (R58). -/
def FFmt.round (f : FFmt) (rm : RM) (sat : Bool) : FV → Nat
  | .nan => f.nan
  | .inf neg => f.overflow .rne neg sat
  | .fin neg m e => if m = 0 then (if neg then f.signW else 0) else f.roundMag rm sat neg m e false

/-- A result under the mode: rounded by RM, then flushed under FTZ (R177). -/
def FFmt.out (f : FFmt) (rm : RM) (ftz : Bool) (v : FV) : Nat := f.flush ftz (f.round rm false v)
/-- An input under the mode. -/
def FFmt.inp (f : FFmt) (ftz : Bool) (b : Nat) : FV := f.dec (f.flush ftz b)

/-! Exact operations. -/

def FV.isNan : FV → Bool | .nan => true | _ => false
def FV.negate : FV → FV
  | .nan => .nan | .inf n => .inf !n | .fin n m e => .fin (!n) m e
/-- The signed integer mantissa. -/
def signed (neg : Bool) (m : Nat) : Int := if neg then -(m : Int) else m
/-- An exact sum of finite values; an exact zero takes the sign IEEE 754 gives it under `rm`. -/
def addFin (rm : RM) (n1 : Bool) (m1 : Nat) (e1 : Int) (n2 : Bool) (m2 : Nat) (e2 : Int) : FV :=
  if m1 = 0 ∧ m2 = 0 then .fin (if n1 = n2 then n1 else rm = .rdn) 0 0
  else if m2 = 0 then .fin n1 m1 e1
  else if m1 = 0 then .fin n2 m2 e2
  else
    let e := min e1 e2
    let a := signed n1 (m1 <<< (e1 - e).toNat) + signed n2 (m2 <<< (e2 - e).toNat)
    if a = 0 then .fin (rm = .rdn) 0 0 else .fin (a < 0) a.natAbs e
def FV.add (rm : RM) : FV → FV → FV
  | .nan, _ | _, .nan => .nan
  | .inf a, .inf b => if a = b then .inf a else .nan
  | .inf a, _ | _, .inf a => .inf a
  | .fin n1 m1 e1, .fin n2 m2 e2 => addFin rm n1 m1 e1 n2 m2 e2
def FV.mul : FV → FV → FV
  | .nan, _ | _, .nan => .nan
  | .inf a, .inf b => .inf (a != b)
  | .inf a, .fin n m _ | .fin n m _, .inf a => if m = 0 then .nan else .inf (a != n)
  | .fin n1 m1 e1, .fin n2 m2 e2 => .fin (n1 != n2) (m1 * m2) (e1 + e2)

/-- Two finite values over one exponent. -/
def alignCmp (n1 : Bool) (m1 : Nat) (e1 : Int) (n2 : Bool) (m2 : Nat) (e2 : Int) : Ordering :=
  if m1 = 0 ∧ m2 = 0 then .eq
  else
    let e := min e1 e2
    compare (signed n1 (m1 <<< (e1 - e).toNat)) (signed n2 (m2 <<< (e2 - e).toNat))
/-- The order of two values that are not NaN; −0 = +0. -/
def FV.cmp : FV → FV → Ordering
  | .inf a, .inf b => if a = b then .eq else if a then .lt else .gt
  | .inf a, _ => if a then .lt else .gt
  | _, .inf b => if b then .gt else .lt
  | .fin n1 m1 e1, .fin n2 m2 e2 => alignCmp n1 m1 e1 n2 m2 e2
  | _, _ => .eq

/-! The operations of R177 to R179 on patterns of a format. -/

def FFmt.add (f : FFmt) (rm : RM) (ftz : Bool) (x y : Nat) : Nat := f.out rm ftz ((f.inp ftz x).add rm (f.inp ftz y))
def FFmt.sub (f : FFmt) (rm : RM) (ftz : Bool) (x y : Nat) : Nat :=
  f.out rm ftz ((f.inp ftz x).add rm (f.inp ftz y).negate)
def FFmt.mul (f : FFmt) (rm : RM) (ftz : Bool) (x y : Nat) : Nat := f.out rm ftz ((f.inp ftz x).mul (f.inp ftz y))
/-- x × y + z with one rounding. -/
def FFmt.fma (f : FFmt) (rm : RM) (ftz : Bool) (x y z : Nat) : Nat :=
  f.out rm ftz (((f.inp ftz x).mul (f.inp ftz y)).add rm (f.inp ftz z))
def FFmt.fms (f : FFmt) (rm : RM) (ftz : Bool) (x y z : Nat) : Nat :=
  f.out rm ftz (((f.inp ftz x).mul (f.inp ftz y)).add rm (f.inp ftz z).negate)

/-- minimumNumber and maximumNumber (R178): `mx` chooses the greater; −0 counts as less than +0. -/
def FFmt.minMax (f : FFmt) (mx ftz : Bool) (x y : Nat) : Nat :=
  let x := f.flush ftz x
  let y := f.flush ftz y
  if f.isNan x && f.isNan y then f.nan
  else if f.isNan x then y
  else if f.isNan y then x
  else
    let xLess := match (f.dec x).cmp (f.dec y) with
      | .lt => true | .gt => false | .eq => f.neg x && !f.neg y
    if xLess = mx then y else x

/-- FABS, FNEG and FCOPYS: the sign of a number only; a NaN becomes the canonical NaN (R177). -/
def FFmt.setSign (f : FFmt) (ftz neg : Bool) (x : Nat) : Nat :=
  if f.isNan x then f.nan else (if neg then f.signW else 0) + f.mag (f.flush ftz x)

/-- A value rounded to an integral value by `rm`, keeping the sign of a zero result. -/
def FV.integral (rm : RM) : FV → FV
  | .fin neg m e => if 0 ≤ e then .fin neg m e else .fin neg (roundUnits rm neg m e 0 false) 0
  | v => v
def FFmt.integral (f : FFmt) (rm : RM) (ftz : Bool) (x : Nat) : Nat := f.out .rne ftz ((f.inp ftz x).integral rm)

/-- The compares of R179. -/
def FFmt.eqB (f : FFmt) (ftz : Bool) (x y : Nat) : Bool :=
  !f.isNan x && !f.isNan y && (f.inp ftz x).cmp (f.inp ftz y) == .eq
def FFmt.ltB (f : FFmt) (ftz : Bool) (x y : Nat) : Bool :=
  !f.isNan x && !f.isNan y && (f.inp ftz x).cmp (f.inp ftz y) == .lt
def FFmt.leB (f : FFmt) (ftz : Bool) (x y : Nat) : Bool :=
  !f.isNan x && !f.isNan y && (f.inp ftz x).cmp (f.inp ftz y) != .gt

/-- The class mask of FCLASS (R179), FP32. -/
def fclass (x : Nat) : Nat :=
  let n := F32.neg x
  let g := F32.mag x
  if F32.isNan x then (if g / 2 ^ 22 % 2 = 1 then 2 ^ 9 else 2 ^ 8)
  else if F32.inf = some g then (if n then 2 ^ 0 else 2 ^ 7)
  else if g = 0 then (if n then 2 ^ 3 else 2 ^ 4)
  else if F32.isSub x then (if n then 2 ^ 2 else 2 ^ 5)
  else if n then 2 ^ 1 else 2 ^ 6

/-! Conversions (R58). -/

/-- A float format of CVT, an x2 format by its element. -/
def ffmtOf : Fmt → Option FFmt
  | .f32 => some F32 | .f16 | .f16x2 => some F16 | .bf16 | .bf16x2 => some BF16 | .e4m3 => some E4M3
  | .e5m2 => some E5M2 | _ => none
/-- Bits of an element. -/
def fmtBits : Fmt → Nat
  | .f32 | .i32 | .u32 => 32 | .f16 | .bf16 | .f16x2 | .bf16x2 => 16 | .e4m3 | .e5m2 | .i8 | .u8 => 8 | .i4 => 4
/-- The range of an integer format: least and greatest. -/
def fmtRange : Fmt → Int × Int
  | .i32 => (-2 ^ 31, 2 ^ 31 - 1) | .u32 => (0, 2 ^ 32 - 1) | .i8 => (-128, 127) | .u8 => (0, 255) | .i4 => (-8, 7)
  | _ => (0, 0)
/-- The integer value of an element's bits. -/
def fmtInt (f : Fmt) (b : Nat) : Int :=
  let n := (fmtBits f)
  let u := b % 2 ^ n
  if (fmtRange f).1 < 0 ∧ 2 ^ (n - 1) ≤ u then (u : Int) - 2 ^ n else u
def clampI (r : Int × Int) (v : Int) : Int := if v < r.1 then r.1 else if r.2 < v then r.2 else v

/-- The value of a source element under FTZ: an integer is exact. -/
def fmtValue (f : Fmt) (ftz : Bool) (b : Nat) : FV :=
  match ffmtOf f with
  | some g => g.inp ftz (b % 2 ^ (fmtBits f))
  | none => let v := fmtInt f b; .fin (v < 0) v.natAbs 0

/-- A value as an integer of a range: rounded by `rm`, then saturated; NaN gives 0. -/
def toRange (rm : RM) (r : Int × Int) : FV → Int
  | .nan => 0
  | .inf neg => if neg then r.1 else r.2
  | .fin neg m e =>
    if 0 < m ∧ 64 < e + (m.log2 : Int) then (if neg then r.1 else r.2)
    else clampI r (signed neg (roundUnits rm neg m e 0 false))

/-- One element converted: the destination element's bits in the lane, sign-extended where R58's table says. -/
def convert (dst src : Fmt) (rm : RM) (sat ftz : Bool) (b : Nat) : Nat :=
  match ffmtOf dst with
  | some g => g.flush ftz (g.round rm sat (fmtValue src ftz b))
  | none => (BitVec.ofInt 32 (match ffmtOf src with
    | some _ => toRange rm (fmtRange dst) (fmtValue src ftz b)
    | none => clampI (fmtRange dst) (fmtInt src b))).toNat

/-! Canonical blocks (R47 to R53). -/

/-- A finite input value of a block in the exact form `v * 2^e`. -/
abbrev Dyadic2 := Int × Int

/-- Whether −2^(X−127+m−1) ≤ v·2^e < 2^(X−127+m−1) (R50). -/
def fitsX (m x : Nat) (d : Dyadic2) : Bool :=
  let p : Int := (x : Int) - 127 + (m : Int) - 1
  -- compare v * 2^e with 2^p
  let sh := d.2 - p
  if 0 ≤ sh then decide (d.1 = 0) || decide (-1 ≤ d.1 * (1 <<< sh.toNat : Nat) ∧ d.1 * (1 <<< sh.toNat : Nat) < 1)
  else decide (-((1 <<< (-sh).toNat : Nat) : Int) ≤ d.1 ∧ d.1 < ((1 <<< (-sh).toNat : Nat) : Int))

/-- The smallest X at or above `x` that one value allows; `fuel` bounds the search to 255. The scaled elements of an MX block
may allow no X up to 255: R50 names none then, and X = 255 with the mantissas clamped is the model's choice (log 18). -/
def leastX (m : Nat) (d : Dyadic2) : (fuel x : Nat) → Nat
  | 0, x => x
  | n + 1, x => if fitsX m x d then x else leastX m d n (x + 1)
/-- The shared exponent of the included values (R50). -/
def chooseX (m : Nat) : List Dyadic2 → Nat
  | [] => 0
  | d :: r => max (leastX m d 255 0) (chooseX m r)

/-- A rational `a * 2^e` in units of `2^q`, rounded to the nearest integer, ties to even. -/
def rneUnits (a e q : Int) : Int := signed (a < 0) (roundUnits .rne (a < 0) a.natAbs e q false)

/-- R51 over the elements in order; `none` is an excluded element. The error carried is `err * 2^ee` with
`ee ≤` every exponent met. -/
def quantiseFrom (m : Nat) (step : Int) : (err ee : Int) → List (Option Dyadic2) → List (Option Int)
  | _, _, [] => []
  | err, ee, none :: r => none :: quantiseFrom m step err ee r
  | err, ee, some (v, e) :: r =>
    let e0 := min (min e ee) step
    let y := v * ((1 <<< (e - e0).toNat : Nat) : Int) + err * ((1 <<< (ee - e0).toNat : Nat) : Int)
    let q := clampI (-(2 ^ (m - 1) : Nat), (2 ^ (m - 1) : Nat) - 1) (rneUnits y e0 step)
    some q :: quantiseFrom m step (y - q * ((1 <<< (step - e0).toNat : Nat) : Int)) e0 r
/-- The mantissas of a block: `X` chosen over the included elements, then R51. -/
def quantise (m : Nat) (xs : List (Option Dyadic2)) : Nat × List (Option Int) :=
  let x := chooseX m (xs.filterMap id)
  (x, quantiseFrom m ((x : Int) - 127) 0 ((x : Int) - 127) xs)

/-- R50's preparation of an input of a source float format. -/
def prepare (f : FFmt) (v : FV) : Dyadic2 :=
  match v with
  | .nan => (0, 0)
  | .inf neg => match f.dec f.maxB with
    | .fin _ m e => (signed neg m, e)
    | _ => (0, 0)
  | .fin neg m e => (signed neg m, e)

/-- m of a mantissa code (R47). -/
def mOf (mc : Nat) : Nat := if mc = 15 then 16 else mc + 1
/-- Bytes of a canonical block. -/
def blockBytes (m : Nat) : Nat := 8 + 4 * m

/-- A bit stream of `w`-bit values, little-endian, as one number. -/
def packBits (w : Nat) : List Nat → Nat
  | [] => 0
  | v :: r => v % 2 ^ w + 2 ^ w * packBits w r
/-- The bytes of a canonical block (R47, R48). -/
def blockOf (m x : Nat) (q : List Int) : List Byte :=
  let nz := packBits 1 (q.map fun v => if v = 0 then 0 else 1)
  leBytes 8 (x + 2 ^ 8 * nz + 2 ^ 40 * (if m = 16 then 15 else m - 1))
    ++ leBytes (4 * m) (packBits m (q.map fun v => (BitVec.ofInt 16 v).toNat))
/-- A block all of whose elements are 0. -/
def zeroBlock (m : Nat) : List Byte := blockOf m 0 (List.replicate 32 0)

/-- An `n`-bit two's complement field. -/
def sext (n v : Nat) : Int := if 2 ^ (n - 1) ≤ v % 2 ^ n then ((v % 2 ^ n : Nat) : Int) - 2 ^ n else (v % 2 ^ n : Nat)
/-- X and the 32 elements of a block of mantissa width `m` (R48): an element whose NZ bit is 0 is 0. -/
def blockElems (m : Nat) (bs : List Byte) : Nat × List Int :=
  let h := leNat (bs.take 8)
  let s := leNat (bs.drop 8)
  (h % 256, (List.range 32).map fun j => if h / 2 ^ (8 + j) % 2 = 1 then sext m (s / 2 ^ (j * m)) else 0)
/-- The NZ mask of a block. -/
def blockNZ (bs : List Byte) : Nat := leNat (bs.take 8) / 2 ^ 8 % 2 ^ 32

end Sys2Proof.Machine
end

