-- ==== Sys2Proof/Machine/State.lean ====
section
/-! DEFINITION. The state of the Aqryn 640 package, as plain data, and its value at reset. Each field's docstring cites
the rule that names it; a `Tab` holds only the entries that differ from the default that its reader supplies. -/

namespace Sys2Proof.Machine

/-- A vector register as R160 stores it: one value for every lane, a base and a stride, or one value a lane. -/
inductive VReg where
  | uni (u : Word) | aff (b s : Word) | gen (lanes : List Word)
deriving DecidableEq, Repr

/-- An entry of a warp's trap queue: what its frame needs (R289, R292, R293). -/
structure TrapEntry where
  cause : Byte
  pc : DWord
  addr : DWord := 0
  lanes : DWord := 0
  exec : DWord := 0
  iw : List Word := []
  detail : DWord := 0
  async : Bool := false
deriving DecidableEq, Repr

/-- A launch record as read, in fields (R268); `map` holds the cohort map's (member mask, operation) of cohorts 1 up. -/
structure Footprint where
  entry : DWord := 0
  grid : Nat := 1
  warps : Nat := 1
  width : Nat := 16
  die : Nat := 0
  prio : Nat := 0
  vregs : Nat := 1
  sregs : Nat := 1
  tiles : Nat := 0
  accs : Nat := 0
  coh : Nat := 1
  loc : Nat := 0
  tags : Nat := 0
  pop0 : Nat := 0
  args : DWord := 0
  counter : DWord := 0
  bitmap : DWord := 0
  map : List (Word × Nat) := []
deriving DecidableEq, Repr

/-- An entry of a pending-launch queue (R273): the record and map as read, in bytes and in fields, and the clock of
the push. -/
structure LaunchEntry where
  raw : List Byte
  map : List DWord
  fp : Footprint
  push : Nat
deriving DecidableEq, Repr

/-- What a warp that is not running waits at (R248, R259, R280). -/
inductive Run where
  | running
  | bar (cohort : Nat) (dest : Reg)
  | await (off : DWord) (phase : Bool)
  | bwait (addr idx : DWord)
  | join (addr : DWord)
  | ldf
  | launch (entry : LaunchEntry) (addr : DWord)
  | halted (inBar : Option (Nat × Reg)) (debug : Bool)
  | exited
deriving DecidableEq, Repr

/-- Why an instruction waits in rename, dispatch or translation, or in flight, without being at a blocking point: `sepia`, an
ACTLD for the ACTs on its bank that were in flight when it came to wait, which has this number; `act`, an ACT that an ACTLD
holds (R184); `accr`, an ACCR for its operation in the matrix queue, which has this number, with what that has read once it is
complete (R210). -/
inductive Wait where
  | queue | tile | matrix | sets | migrate | sepia (bank : Bool) (n : Nat) | act | accr (id : Nat) (got : Option (List Word))
deriving DecidableEq, Repr

/-- What a dispatched instruction does with the Sepia banks (R184): an ACT on a bank, with the number it was dispatched at, or
an ACTLD. -/
inductive SepiaUse where | act (bank : Bool) (n : Nat) | load
deriving DecidableEq, Repr

/-- An instruction dispatched and not retired (R157, R247): its words, fetched once (R13), whether it is the first of its
stint, is a blocking instruction (R248), or decides what comes after it (a transfer, or a word that traps), and what it does
with the Sepia banks. -/
structure RobEntry where
  iw : List Word
  first : Bool
  blocks : Bool
  turns : Bool
  sepia : Option SepiaUse
deriving DecidableEq, Repr

/-- A leaf translation as a walk returns it (R37): the page's size in bits, its tier and offset, and its attributes. -/
structure Leaf where
  bits : Nat
  tier : Nat
  base : Nat
  io : Bool
  x : Bool
  w : Bool
  rd : Bool
deriving DecidableEq, Repr

/-- The translations of an access in flight, by 512 KiB unit, with its number among the commands (R43). -/
structure Held where
  id : Nat
  units : List (Nat × Leaf)
deriving DecidableEq, Repr

/-- A warp (R154 to R166, R271, R286 to R297, R312). -/
structure Warp where
  /-- v0 to v63 (R6, R160); unlisted: UNI 0 -/
  v : Tab VReg := []
  /-- s0 to s63 (R6); unlisted: 0 -/
  s : Tab DWord := []
  exec : DWord := 0
  fmode : DWord := 0
  pc : DWord := 0
  tvb : DWord := 0
  tpc : DWord := 0
  texec : DWord := 0
  /-- the mode of R292 -/
  handler : Bool := false
  /-- hs0 to hs15 (R294); unlisted: 0 -/
  hs : Tab DWord := []
  /-- hv0 to hv7 (R294); unlisted: UNI 0 -/
  hv : Tab VReg := []
  /-- the trap queue (R289) -/
  trapQ : List TrapEntry := []
  /-- an asynchronous event was discarded since the last delivery (R290) -/
  ovf : Bool := false
  /-- the trap whose handler runs (R300) -/
  handling : Option TrapEntry := none
  run : Run := .running
  /-- the length in bytes of the blocking instruction at pc -/
  blkLen : Nat := 0
  /-- the wait of the instruction at pc, if it waits -/
  stall : Option Wait := none
  /-- the clock until which it sleeps (R272) -/
  sleep : Option Nat := none
  /-- a halt notice, with the instructions retired since (R295) -/
  notice : Option Nat := none
  /-- its own fault cause in its halt record (R295) -/
  own : Byte := 0
  /-- the instructions dispatched of the stint its slot has bound it for (R246, R247); none: not bound -/
  stint : Option Nat := none
  /-- the words of the instruction at pc, fetched once, while it waits or is blocked (R13) -/
  fetched : List Word := []
  /-- its reorder buffer, oldest first, from pc on: what is dispatched and not retired (R157, R247, R248, R295) -/
  rob : List RobEntry := []
  /-- the translations that the LDF at pc has obtained, from when it blocks to its end (R43, R233) -/
  held : Option Held := none
  /-- the number of the ICINV that it executed last (R314) -/
  icinv : Nat := 0
  yielded : Bool := false
  /-- issue slot and warp context number (R241, R370) -/
  slot : Nat := 0
  wctx : Nat := 0
deriving DecidableEq, Repr

/-- Tile states (R67, R105). -/
inductive TileState where | empty | filling | ready | draining
deriving DecidableEq, Repr

/-- A tile-table entry (R105); OWNER is the workgroup's. -/
structure TileEntry where
  v : Bool := false
  state : TileState := .empty
  layout : Bool := false
  mc : BitVec 4 := 0
  cb : BitVec 4 := 0
  rw : BitVec 6 := 0
  base : BitVec 20 := 0
deriving DecidableEq, Repr

/-- A valid entry of a tag partition (R106). -/
structure TagEntry where
  key : Word
  slot : BitVec 20
deriving DecidableEq, Repr

/-- A cohort-table entry (R244); OWNER, V and COH are its place. -/
structure Cohort where
  members : Word := 0
  arrived : Word := 0
  phase : Bool := false
  pop : Nat := 0
  payload : DWord := 0
deriving DecidableEq, Repr

/-- Where a workgroup is (R240, R276, R281, R62). -/
inductive Place where | resident | draining | evicted | resumable | finished
deriving DecidableEq, Repr

/-- The halt broadcast a workgroup's halt controller has accepted (R297), its trap, and the vector entry as read; none
for the broadcast of a double fault (R298). -/
structure HaltBy where
  warp : Nat
  trap : TrapEntry
  vec : Option DWord
  /-- of a double fault: its second cause, PC and address, for the record that comes before the report (R298) -/
  double : Option (Nat × DWord × DWord) := none
deriving DecidableEq, Repr

/-- A workgroup (R240 to R245, R269, R275 to R282). -/
structure Wg where
  /-- the grid's launch sequence number, and its context -/
  seq : Nat := 0
  ctx : Nat := 0
  /-- linear index -/
  index : Nat := 0
  fp : Footprint := {}
  prio : Nat := 0
  depth : Nat := 0
  place : Place := .resident
  /-- 64 times die plus core -/
  core : Nat := 0
  /-- resident-workgroup slot number, the OWNER (R370) -/
  owner : Nat := 0
  /-- physical scratchpad offset and allocation size (R98) -/
  base : Nat := 0
  alloc : Nat := 0
  /-- t0 to t15 (R105); unlisted: V = 0 -/
  tiles : Tab TileEntry := []
  /-- accumulator elements, key 4096 a + 64 row + column (R192); unlisted: +0 -/
  accs : Tab Word := []
  /-- the valid entries of the tag partition (R106) -/
  tags : List TagEntry := []
  /-- cohort entries (R244) -/
  cohorts : Tab Cohort := []
  launchQ : List LaunchEntry := []
  /-- clock of the last take from the queue (R273) -/
  lastTake : Option Nat := none
  haltBy : Option HaltBy := none
  /-- it has double-faulted and stays halted (R298) -/
  dead : Bool := false
  /-- a HALTED report has been made; it stays until it is killed (R296, R298) -/
  reported : Bool := false
  /-- the eviction area in the near tier: offset and bytes (R278) -/
  area : Option (Nat × Nat) := none
  /-- a wake condition came true during the eviction (R276) -/
  woken : Bool := false
  /-- the scratchpad allocation as saved, local offsets (R278) -/
  saved : Tab Byte := []
  /-- its poisoned words as saved, by local offset ÷ 16 -/
  savedPoison : List Nat := []
deriving DecidableEq, Repr

/-- A grid (R249, R253, R254, R270, R285). -/
structure Grid where
  ctx : Nat := 0
  depth : Nat := 0
  prio : Nat := 0
  fp : Footprint := {}
  parent : Option Nat := none
  /-- next linear index never placed -/
  next : Nat := 0
  finished : Nat := 0
  /-- its last exit has finished and its counter is still to be decremented (R270, R369) -/
  owes : Bool := false
  killed : Bool := false
  stopAtEntry : Bool := false
deriving DecidableEq, Repr

/-- A cached translation (R40): in the TLB of a core, or of a die; `page` is the virtual address of its page. -/
structure TlbEntry where
  shared : Bool
  unit : Nat
  ctx : Nat
  page : Nat
  leaf : Leaf
deriving DecidableEq, Repr

/-- A translation that an async command obtained at issue (R39): one 512 KiB unit, its tier and frame offset. -/
structure Xlat where
  unit : Nat
  tier : Nat
  base : Nat
deriving DecidableEq, Repr

/-- A RED that has left the core (R236): one memory word, the operation, the data of the lanes that name the word in
ascending order, and the warp it came from. -/
structure Red where
  wg : Nat
  warp : Nat
  addr : Nat
  op : AOp
  w64 : Bool
  xs : List DWord
deriving DecidableEq, Repr

/-- One side of a CPY (R87): a local offset or a global address. -/
inductive Side where | loc (off : Nat) | glob (va : DWord)
deriving DecidableEq, Repr

/-- An index descriptor in fields (R72). -/
structure IdxDesc where
  abase : DWord
  aext : Nat
  rowb : Nat
  lev : Nat
  cLocal : Bool
  bbase : DWord
  bext : Nat
  cbase : DWord
  n : Nat
  fill : Word
  loc : Nat
  rop : Nat
deriving DecidableEq, Repr

/-- A CPYT in fields (R88). -/
structure TileCopy where
  out : Bool
  fmt : Nat
  desc : Nat
  tile : TileEntry
  va : DWord
  pitch : Nat
  scale : DWord
  centre : Bool
  transpose : Bool
deriving DecidableEq, Repr

/-- What a copy-queue command does (R86). A QFENCE holds the commands it waits for. -/
inductive CmdKind where
  | cpy (src dst : Side) (len : Nat)
  | cpyt (t : TileCopy)
  | gath (d : IdxDesc)
  | scat (d : IdxDesc)
  | scatRed (d : IdxDesc)
  | qfence (waits : List Nat) (hasObj : Bool)
deriving DecidableEq, Repr

/-- The stages of a command after issue (R62). -/
inductive CmdStage where | queued | performed
deriving DecidableEq, Repr

/-- A command of a copy queue (R60 to R64). -/
structure Cmd where
  id : Nat
  wg : Nat
  warp : Nat
  kind : CmdKind
  xlat : List Xlat := []
  /-- physical offset of the arrival object in the core's scratchpad -/
  obj : Nat := 0
  count : Nat := 0
  stage : CmdStage := .queued
  /-- POISON, BOUND, CORRUPT to OR at arrival (R69) -/
  flags : BitVec 3 := 0
  /-- the engine that performs it -/
  engine : Option Nat := none
  /-- folded reductions not yet applied (R75) -/
  reds : List Red := []
  /-- it wrote peer pages not yet acknowledged (R323) -/
  peer : Bool := false
deriving DecidableEq, Repr

/-- A BULK or BCPY in flight (R102, R104), in local offsets of its workgroup. -/
inductive BankCmd where
  | bulk (id wg warp : Nat) (op : BulkOp) (bf : Bool) (a b : Word) (base : Nat) (n0 n1 n2 : Nat) (t1 t2 : Int)
      (pair : Nat) (obj : Nat)
  | bcpy (id wg warp : Nat) (dst src len rot : Nat) (obj : Nat)
deriving DecidableEq, Repr

/-- What an operation of the matrix queue does (R196, R207 to R211). `rows` is exec at dispatch. -/
inductive MatKind where
  | mma (sp : Bool) (ta tb : Nat) (ea eb : TileEntry) (rows : DWord) (ftz : Bool)
  | accz (rows : DWord)
  | accl (base : Nat) (rows : DWord)
  | accr (first : Nat) (cols : List Nat)
  | accd (d : Nat) (c : Option Nat) (obj : Nat)
deriving DecidableEq, Repr

/-- An operation of a core's matrix queue (R196). -/
structure MatOp where
  id : Nat
  wg : Nat
  warp : Nat
  acc : Nat
  kind : MatKind
  started : Bool := false
deriving DecidableEq, Repr

/-- A Sepia bank (R182): header and segments (SLOPE, ICPT). -/
structure Sepia where
  loaded : Bool := false
  x0 : Word := 0
  hinv : Word := 0
  low : Word := 0
  high : Word := 0
  segs : List (Word × Word) := []
deriving DecidableEq, Repr

/-- An issue slot's arbitration state (R250). -/
structure Slot where
  last : Option Nat := none
  k : Nat := 0
deriving DecidableEq, Repr

/-- A line that a core's instruction caches hold for a context, by memory key ÷ 64, with its bytes and the number of
ICINVs before it was taken in (R13, R314). -/
structure CodeLine where
  ctx : Nat
  line : Nat
  bytes : List Byte
  at_ : Nat := 0
deriving DecidableEq, Repr

/-- A core (R3, R94 to R97, R312). -/
structure Core where
  /-- scratchpad bytes by physical offset (R94); unlisted: 0 -/
  pad : Tab Byte := []
  /-- poisoned 16-byte words, by offset ÷ 16 (R97) -/
  poison : List Nat := []
  /-- banks marked failed (R96) -/
  failed : List Nat := []
  /-- words that hold a detectable error no read has met yet, with whether the second read fails (R96) -/
  latent : List (Nat × Bool) := []
  /-- clocks since the core's reset; SYSR reads them mod 2^64 (R312) -/
  clk : Nat := 0
  cerr : DWord := 0
  sepia0 : Sepia := {}
  sepia1 : Sepia := {}
  slots : Tab Slot := []
  /-- q0 to q7 (R60) -/
  queues : Tab (List Cmd) := []
  matq : List MatOp := []
  bank : List BankCmd := []
  /-- the instruction caches' lines (R314) -/
  icache : List CodeLine := []
deriving DecidableEq, Repr

/-- A decode record in fields (R77), with its workgroup. -/
structure DecRec where
  id : Nat := 0
  wg : Nat
  warp : Nat
  bsa : DWord
  bsl : Nat
  frames : Nat
  bfp : Bool
  upsampled : Bool
  cont : Bool
  sctx : Nat
  x0 : Nat
  y0 : Nat
  wp : Nat
  hp : Nat
  dst : Nat
  fpitch : Nat
  arv : Nat
  sta : DWord
  xlat : List Xlat
deriving DecidableEq, Repr

/-- A Vermilion decoder (R76, R93): its queue, the record in decode and the frames it has put out, and its four
stream contexts: marks (R81), working areas (R318), the serial of the references they hold and the sequence header in force. -/
structure Decoder where
  queue : List DecRec := []
  active : Option (DecRec × Nat) := none
  marks : Tab (BitVec 8) := []
  areas : Tab (Nat × Nat) := []
  serial : Tab Nat := []
  seqs : Tab (List Byte) := []
deriving DecidableEq, Repr

/-- A compute die (R2, R254, R327). -/
structure Die where
  lastCore : Nat := 63
  decoders : Tab Decoder := []
  /-- frozen masters and free engines by UNIT number (R301, R303) -/
  frozen : List (BitVec 16) := []
  limit : Bool := false
  starts : BankStarts := .b64
deriving DecidableEq, Repr

/-- Pane representations (R124) and set layouts (R123). -/
inductive Rep where | list | map | runs
deriving DecidableEq, Repr
inductive Layout where | direct | paned | hashed
deriving DecidableEq, Repr

/-- A pane: its number, its representation and its members' positions, rising (R124). -/
structure Pane where
  no : Nat
  rep : Rep
  keys : List Nat
deriving DecidableEq, Repr

/-- The value of a set (R123 to R127): a HASHED set has `cap` slots in `slots` and the flag of key 0xFFFF_FFFF. -/
structure SetVal where
  u : Nat
  layout : Layout
  panes : List Pane := []
  cap : Nat := 0
  slots : Tab Word := []
  ff : Bool := false
deriving DecidableEq, Repr

/-- The versions of a set's items (R131): `base` is the stamp of the last write of the whole, and `at_` holds the stamps of
later writes, of the directory or table at key 0 and of pane p at key p + 1. -/
structure Vers where
  base : Nat := 0
  at_ : Tab Nat := []
deriving DecidableEq, Repr

/-- An entry of the set handle table (R120) and the set it names. -/
structure SetEntry where
  check : Byte := 0
  v : Bool := false
  pin : Bool := false
  home : Nat := 0
  hdr : BitVec 29 := 0
  val : SetVal := { u := 1, layout := .direct }
  vers : Vers := {}
  /-- the 21 cost counters (R138); unlisted: 0 -/
  cost : Tab DWord := []
  /-- poison lies in its arena lines and no slice has met it yet (R302) -/
  poison : Bool := false
  lost : Bool := false
deriving DecidableEq, Repr

/-- Bulk set commands (R151). -/
inductive SetCmdKind where
  | union | inter | diff | copy
  | xcard (op : XOp) (off : Nat)
  | import_ (repl : Bool) (va : DWord) (n : Nat)
  | export_ (va : DWord) (n : Nat)
deriving DecidableEq, Repr

/-- A bulk set command that has issued (R150, R131): handle-table indexes, and after its start the operand values. -/
structure SetCmd where
  id : Nat
  wg : Nat
  warp : Nat
  kind : SetCmdKind
  d : Nat
  a : Nat
  b : Nat
  /-- the handles of A and B, to which charges go while they are not stale -/
  ha : Word := 0
  hb : Word := 0
  obj : Nat
  xlat : List Xlat := []
  reserve : Nat := 0
  started : Bool := false
  va : Option SetVal := none
  vb : Option SetVal := none
  /-- the versions that its references hold -/
  ra : Vers := {}
  rb : Vers := {}
  poison : Bool := false
deriving DecidableEq, Repr

/-- The debugger attached to a context (R321): its event ring, claims, and the stops whose events wait. -/
structure Debugger where
  ring : Nat
  size : Nat
  claims : DWord
  waiting : List (Nat × TrapEntry) := []
deriving DecidableEq, Repr

/-- A pre-emption request (R284, R319): the host queue it came by, its report buffer and that buffer's size, and whether
its outcome has been reported. -/
structure Preempt where
  queue : Nat
  buf : Nat
  size : Nat
  reported : Bool := false
deriving DecidableEq, Repr

/-- A context (R317, R320). Locations are memory keys (tier and offset). -/
structure Ctx where
  registered : Bool := false
  root : Nat := 0
  hostwin : Nat := 0
  peerwin : Nat := 0
  tvb : DWord := 0
  sht : Nat := 0
  shtn : Nat := 0
  pto : Nat := 0
  arena : Nat := 0
  arenag : Nat := 0
  evp : Nat := 0
  evpsz : Nat := 0
  err : Nat := 0
  errn : Nat := 0
  replay : Bool := false
  cap : Nat := 0
  capsz : Nat := 0
  errHead : Word := 0
  errTail : Word := 0
  errDrop : Word := 0
  dbgHead : Word := 0
  dbgTail : Word := 0
  /-- the pending pre-emption request (R284) -/
  preempt : Option Preempt := none
  preempted : Bool := false
  debugger : Option Debugger := none
  sets : Tab SetEntry := []
  /-- the model's own: the last stamp of a set version (R131) -/
  setStamp : Nat := 0
  setCmds : List SetCmd := []
  /-- the bytes recorded in the capture buffer (R306) -/
  captured : Nat := 0
deriving DecidableEq, Repr

/-- A host queue's registers (R320). -/
structure HostQ where
  qbase : DWord := 0
  qsize : Word := 0
  qceil : Word := 0
  qhead : Word := 0
  qtail : Word := 0
  sbase : DWord := 0
  ssize : Word := 0
  stail : Word := 0
  shead : Word := 0
  qctl : Word := 0
deriving DecidableEq, Repr

/-- A translation command as posted (R42): the bytes of its record. -/
abbrev XCmd := List Byte

/-- A hardware error that no reader has met yet (R96, R302): in a 64-byte line of memory, by its number; in a scratchpad word
of a core, with whether a second read fails as well; in the arena lines of a set. -/
inductive Upset where
  | line (n : Nat)
  | word (core n : Nat) (again : Bool)
  | set (ctx i : Nat)
deriving DecidableEq, Repr

/-- What moves next, where the spec gives no order or the outside world decides (log 1): a warp, a step of another
agent, clocks of a core, a host agent's store to host memory, a hardware error, a line that a core's instruction caches take in
or let go, or the dispatch of a bound warp's next instruction. -/
inductive Pick where
  | warp (k : Nat)
  | farWait (k : Nat)
  | event (i : Instr)
  | clocks (core n : Nat)
  | hostWrite (off : Nat) (bytes : List Byte)
  | upset (u : Upset)
  | codeLine (core ctx line : Nat) (keep : Bool)
  | dispatched (k : Nat)
  | idle
deriving DecidableEq, Repr

/-- An attestation response (R326): the measurements of the ROM, the firmware and the fuses, the nonce, and the signature. -/
structure Attestation where
  rom : BitVec 512
  firmware : BitVec 512
  fuses : BitVec 512
  nonce : BitVec 256
  signature : List Byte
deriving DecidableEq, Repr

/-- An ingress command that a frozen peer port holds (R303): the port, its arrival object and its bytes. -/
structure HeldIngress where
  port : Nat
  core : Nat
  loff : Nat
  count : Nat
deriving DecidableEq, Repr

/-- The package. -/
structure State where
  /-- memory, keyed 2^52 tier + offset (R33); unlisted: 0 (log 3) -/
  mem : Tab Byte := []
  /-- poisoned 64-byte lines, by key ÷ 64 (R302) -/
  linePoison : List Nat := []
  tlb : List TlbEntry := []
  xlq : List XCmd := []
  /-- the INVAL in progress and the commands it waits for (R43) -/
  inval : Option (XCmd × List Nat) := none
  /-- the ZMAP between its zeroing and its entries (R41) -/
  zmap : Option XCmd := none
  reds : List Red := []
  /-- the next launch sequence number (R249) -/
  nextSeq : Nat := 1
  grids : Tab Grid := []
  wgs : Tab Wg := []
  /-- the next workgroup number of the model -/
  nextWg : Nat := 0
  /-- keyed 32 times workgroup number plus warp number -/
  warps : Tab Warp := []
  cores : Tab Core := []
  dies : Tab Die := []
  ctxs : Tab Ctx := []
  hostqs : Tab HostQ := []
  /-- issue order of commands, and of what R184 and R43 order -/
  nextCmd : Nat := 0
  frozen : Bool := false
  booted : Bool := false
  bootFailed : Bool := false
  /-- the bytes of the firmware that was booted (R325, R326) -/
  firmware : List Byte := []
  /-- the number of ICINVs executed (R314) -/
  icinvs : Nat := 0
  /-- answers to configuration requests: retry status or not, oldest first (R325) -/
  cfgReplies : List Bool := []
  /-- attestation responses, and whether by the DOE mailbox (R326) -/
  attested : List (Bool × Attestation) := []
  bar2win : DWord := 0
  evcause : DWord := 0
  peerTable : Tab Byte := []
  exportTable : Tab Byte := []
  msixTable : Tab Byte := []
  msixPending : Tab Byte := []
  /-- MSI-X vectors signalled, oldest first (R320) -/
  msix : List Nat := []
  /-- frozen peer ingress ports (R303, R322) -/
  portsFrozen : List Nat := []
  portHeld : List HeldIngress := []
  /-- in replay capture mode (R306): the internal moves made, the boundary inputs with the moves made before each, and those
  supplied to a rerun -/
  moves : Nat := 0
  inputs : List (Nat × Pick) := []
  supply : List (Nat × Pick) := []
  /-- the model's own: serial of free values (log 2) -/
  free : Nat := 0
  /-- the model's own: who moves next (log 1) -/
  agenda : List Pick := []
  /-- the model's own: the executing warp's key and the words it fetched (R29) -/
  cur : Nat := 0
  iw : List Word := []
deriving DecidableEq, Repr

/-- How a step stops. -/
inductive Fault where
  /-- Raised by `step` alone: the agenda names, as a step of another agent, an instruction that only a warp executes
  (or the reverse). Safe: no hardware behaviour is claimed for such an agenda. -/
  | agendaNotAStep
deriving DecidableEq, Repr

/-- Why a step is refused. -/
inductive Refusal where
  /-- Raised by an arm of `exec` whose instruction has no meaning yet. Safe: nothing is claimed about it. -/
  | notModelled (mnemonic : String)
deriving DecidableEq, Repr

/-- The package right after reset: no context, grid, workgroup or warp, every register at the value the spec gives
or that INVENTORY.md names. -/
def State.reset : State := {}

end Sys2Proof.Machine
end

