-- ==== Sys2Proof/Machine/Ops.lean ====
section
/-! DEFINITION. The named operations on the state: accessors, memory and translation, scratchpad, arrivals, the error
page, taking an exception and returning from one, and the end of an instruction. -/

namespace Sys2Proof.Machine

/-! Accessors: every part of the state is read and written through these. -/

def State.warpAt (s : State) (k : Nat) : Warp := Tab.get {} k s.warps
def State.setWarpAt (s : State) (k : Nat) (w : Warp) : State := { s with warps := Tab.put {} k w s.warps }
def State.wgAt (s : State) (n : Nat) : Wg := Tab.get {} n s.wgs
def State.setWgAt (s : State) (n : Nat) (g : Wg) : State := { s with wgs := Tab.put {} n g s.wgs }
def State.gridAt (s : State) (q : Nat) : Grid := Tab.get {} q s.grids
def State.setGridAt (s : State) (q : Nat) (g : Grid) : State := { s with grids := Tab.put {} q g s.grids }
def State.coreAt (s : State) (c : Nat) : Core := Tab.get {} c s.cores
def State.setCoreAt (s : State) (c : Nat) (x : Core) : State := { s with cores := Tab.put {} c x s.cores }
def State.dieAt (s : State) (d : Nat) : Die := Tab.get {} d s.dies
def State.setDieAt (s : State) (d : Nat) (x : Die) : State := { s with dies := Tab.put {} d x s.dies }
def State.ctxAt (s : State) (c : Nat) : Ctx := Tab.get {} c s.ctxs
def State.setCtxAt (s : State) (c : Nat) (x : Ctx) : State := { s with ctxs := Tab.put {} c x s.ctxs }
def State.hostqAt (s : State) (q : Nat) : HostQ := Tab.get {} q s.hostqs
def State.setHostqAt (s : State) (q : Nat) (x : HostQ) : State := { s with hostqs := Tab.put {} q x s.hostqs }

/-- The executing warp, its workgroup, core and context. -/
def State.warp (s : State) : Warp := s.warpAt s.cur
def State.setWarp (s : State) (w : Warp) : State := s.setWarpAt s.cur w
/-- The workgroup number and warp number of a warp key. -/
def wgOf (k : Nat) : Nat := k / 32
def warpNo (k : Nat) : Nat := k % 32
def State.wg (s : State) : Wg := s.wgAt (wgOf s.cur)
def State.setWg (s : State) (g : Wg) : State := s.setWgAt (wgOf s.cur) g
def State.core (s : State) : Core := s.coreAt s.wg.core
def State.setCore (s : State) (c : Core) : State := s.setCoreAt s.wg.core c
def State.ctx (s : State) : Ctx := s.ctxAt s.wg.ctx
def State.width (s : State) : Nat := s.wg.fp.width
/-- 2^W − 1 (R171). -/
def wmask (w : Nat) : DWord := BitVec.ofNat 64 (2 ^ w - 1)
def State.wm (s : State) : DWord := wmask s.width

/-- A free value (log 2): the serial number advances with each. -/
def State.fresh (s : State) : DWord × State := (Config.freeBits s.free, { s with free := s.free + 1 })

/-! Registers (R6, R160, R294). -/

def readS (w : Warp) (r : Reg) : DWord :=
  if w.handler then Tab.get 0 r.toNat w.hs else if r = 0 then 0 else Tab.get 0 r.toNat w.s
/-- A write to s0 is discarded (R6, R168); hs0 is a real register (R294). -/
def writeS (w : Warp) (r : Reg) (v : DWord) : Warp :=
  if w.handler then { w with hs := Tab.put 0 r.toNat v w.hs }
  else if r = 0 then w else { w with s := Tab.put 0 r.toNat v w.s }
def readV (w : Warp) (r : Reg) : VReg :=
  if w.handler then Tab.get (.uni 0) r.toNat w.hv else Tab.get (.uni 0) r.toNat w.v
def writeV (w : Warp) (r : Reg) (v : VReg) : Warp :=
  if w.handler then { w with hv := Tab.put (.uni 0) r.toNat v w.hv }
  else { w with v := Tab.put (.uni 0) r.toNat v w.v }
/-- Lane `l` of a register (R160). -/
def VReg.lane (v : VReg) (l : Nat) : Word :=
  match v with
  | .uni u => u
  | .aff b st => b + BitVec.ofNat 32 l * st
  | .gen ls => ls.getD l 0
/-- The tag codes of R160. -/
inductive Tag where | uni | aff | gen
deriving DecidableEq, Repr
def VReg.tag : VReg → Tag | .uni _ => .uni | .aff .. => .aff | .gen _ => .gen
/-- All W lanes. -/
def VReg.lanes (w : Nat) (v : VReg) : List Word := (List.range w).map v.lane

/-! Global memory (R31 to R40). -/

/-- The memory key of a tier's offset. -/
def memKey (tier off : Nat) : Nat := tier * 2 ^ 52 + off
def State.readMem (s : State) (a n : Nat) : List Byte := Tab.getN 0 a n s.mem
def State.writeMem (s : State) (a : Nat) (b : List Byte) : State := { s with mem := Tab.putN 0 a b s.mem }
/-- Bits `h` to `l` of an unsigned value (R30). -/
def bits (x h l : Nat) : Nat := x / 2 ^ l % 2 ^ (h + 1 - l)

/-- R32. -/
def canonical (va : DWord) : Bool := bits va.toNat 63 55 = (if va.getLsbD 54 then 0x1FF else 0)
/-- The end of a tier's offsets in a context (R33). -/
def tierLimit (c : Ctx) : Nat → Nat
  | 0 => 0x50_0000_0000 | 1 => 0xC0_0000_0000 | 2 => c.hostwin | _ => c.peerwin

/-- `n` bytes from an offset of the peer tier on lie in the peer's exported region: the peer table's entry has V, and SIZE is
not below their end in the region (R320, R322). That an entry without V is as one of SIZE 0 is the model's choice (log 30). -/
def State.peerOk (s : State) (off n : Nat) : Bool :=
  let p := 32 * (off / 2 ^ 40)
  (Tab.get (0 : Byte) (p + 19) s.peerTable).getLsbD 7 && off % 2 ^ 40 + n ≤ leNat (Tab.getN 0 (p + 24) 8 s.peerTable)
/-- An entry's reserved bits, and its place in its tier (R33, R36). Only the offset that the entry holds is held to the
tier's end: of a page that begins below the end and passes it the spec says nothing, and accesses beyond the end of the host
tier go through. That is the model's choice (log 30). -/
def entryOk (c : Ctx) (e : Nat) : Bool :=
  bits e 63 52 = 0 && bits e 14 10 = 0 && bits e 51 15 * 2 ^ 15 < tierLimit c (bits e 7 6)
/-- A table entry that R36 admits. -/
def tableOk (c : Ctx) (e : Nat) : Bool := entryOk c e && bits e 7 6 < 2 && bits e 9 8 = 0 && bits e 5 2 = 0
/-- A leaf that R34 and R36 admit, with its page's size in bits. -/
def State.leafOk (s : State) (c : Ctx) (e size : Nat) : Bool :=
  entryOk c e && bits e (size - 1) 15 = 0 && (bits e 5 5 = 0 || 2 ≤ bits e 7 6)
    && (bits e 7 6 ≠ 3 || s.peerOk (bits e 51 15 * 2 ^ 15) 1)

/-- What a walk ends in (R37). -/
inductive Walk where | leaf (l : Leaf) | invalid | mig
deriving DecidableEq, Repr

/-- The leaf of an entry, or a wait for its migration (R44). -/
def leafOf (e size base : Nat) : Walk :=
  if bits e 9 9 = 1 then .mig
  else .leaf ⟨size, bits e 7 6, base, bits e 5 5 = 1, bits e 4 4 = 1, bits e 3 3 = 1, bits e 2 2 = 1⟩
/-- Entry `i` of the table that a location or a table entry names. No rule names a walk among the readers of poison: an entry
in a poisoned line is read as its bytes are, by the model's choice (log 30). -/
def State.entry (s : State) (table i : Nat) : Nat := leNat (s.readMem (table + 8 * i) 8)
/-- The table an entry points to. -/
def tableOf (e : Nat) : Nat := memKey (bits e 7 6) (bits e 51 15 * 2 ^ 15)

/-- A level-3 entry's translation: a page of its own, or through the head of its run (R37). -/
def State.walk3 (s : State) (c : Ctx) (e2 va : Nat) : Walk :=
  let e3 := s.entry (tableOf e2) (bits va 30 19)
  if bits e3 1 0 ≠ 3 ∨ !s.leafOk c e3 19 then .invalid
  else if bits e3 8 8 = 1 then
    let h := s.entry (tableOf e2) (bits va 30 25 * 64)
    if bits h 1 0 ≠ 3 ∨ bits h 8 8 = 0 ∨ !s.leafOk c h 25 then .invalid
    else leafOf h 25 (bits h 51 15 * 2 ^ 15)
  else leafOf e3 19 (bits e3 51 15 * 2 ^ 15)

/-- The walk of R37 for a canonical address. -/
def State.walk (s : State) (c : Ctx) (va : Nat) : Walk :=
  let e1 := s.entry c.root (bits va 54 43)
  if bits e1 1 0 ≠ 1 ∨ !tableOk c e1 then .invalid
  else
    let e2 := s.entry (tableOf e1) (bits va 42 31)
    if bits e2 0 0 = 0 then .invalid
    else if bits e2 1 1 = 1 then
      if s.leafOk c e2 31 && bits e2 8 8 = 0 then leafOf e2 31 (bits e2 51 15 * 2 ^ 15) else .invalid
    else if tableOk c e2 then s.walk3 c e2 va else .invalid

/-- A cached translation of the core or of its die (R40). A cached 32 MiB run serves every address of the run, a member with RUN = 0
or V = 0 too, which a walk would translate otherwise or refuse: the model's choice (log 6). -/
def State.tlbHit (s : State) (core ctx va : Nat) : Option Leaf :=
  (s.tlb.find? fun t => t.ctx = ctx && (if t.shared then t.unit = core / 64 else t.unit = core)
    && t.page = va / 2 ^ t.leaf.bits).map TlbEntry.leaf
/-- The translation of an address: a TLB's, else a walk's. -/
def State.lookup (s : State) (core ctx : Nat) (va : DWord) : Walk :=
  match s.tlbHit core ctx va.toNat with
  | some l => .leaf l
  | none => s.walk (s.ctxAt ctx) va.toNat

/-- What an access asks of its page (R37). -/
inductive Acc where | read | write | rw | fetch | engRead | engWrite
deriving DecidableEq, Repr
def Acc.engine : Acc → Bool | .engRead | .engWrite => true | _ => false
def Leaf.permits (l : Leaf) (k : Acc) : Bool :=
  (match k with
  | .read | .engRead => l.rd
  | .write | .engWrite => l.w
  | .rw => l.rd && l.w
  | .fetch => l.x) && (l.tier ≠ 3 || k.engine)
/-- The memory key of an address under a leaf. -/
def Leaf.key (l : Leaf) (va : Nat) : Nat := memKey l.tier (l.base + va % 2 ^ l.bits)

/-- The outcome of an address's checks (R38): its memory key and leaf, a cause, or a wait for a migration. -/
inductive Xlate where | ok (key : Nat) (l : Leaf) | bad (cause : Nat) | wait
deriving DecidableEq, Repr

/-- R38's order: canonical, aligned, translated (as `look` says), permitted. -/
def checkVa (look : Walk) (va : DWord) (align : Nat) (k : Acc) : Xlate :=
  if !canonical va then .bad 0x0B
  else if va.toNat % align ≠ 0 then .bad 0x0A
  else match look with
    | .mig => .wait
    | .invalid => .bad 0x08
    | .leaf l => if l.permits k then .ok (l.key va.toNat) l else .bad 0x09
/-- The checks of an access from a core. -/
def State.xlate (s : State) (core ctx : Nat) (va : DWord) (align : Nat) (k : Acc) : Xlate :=
  checkVa (s.lookup core ctx va) va align k
/-- The translation that the executing warp's LDF holds of an address, else the address's own (R43). -/
def State.lookupW (s : State) (va : DWord) : Walk :=
  match s.warp.held.bind fun h => h.units.find? fun u => u.1 = va.toNat / 2 ^ 19 with
  | some u => .leaf u.2
  | none => s.lookup s.wg.core s.wg.ctx va
/-- The checks of a data access of the executing warp. -/
def State.xlateW (s : State) (va : DWord) (align : Nat) (k : Acc) : Xlate := checkVa (s.lookupW va) va align k

/-- A line of 64 bytes is poisoned (R302). -/
def State.linePoisoned (s : State) (key : Nat) : Bool := s.linePoison.contains (key / 64)

/-- A boundary input recorded for a context in replay capture mode (R306): `n` bytes whose layout the spec does not give,
free, while the buffer has room (log 26). -/
def State.capture (ctx n : Nat) (s : State) : State :=
  let c := s.ctxAt ctx
  if !c.replay || c.capsz < c.captured + n then s
  else ({ s.writeMem (c.cap + c.captured) ((List.range n).map fun i => Config.freeByte (s.free + i)) with free := s.free + n }
    : State).setCtxAt ctx { c with captured := c.captured + n }

/-! MSI-X and the error page. -/

/-- Vector control resets to masked in the PCIe layout (log 25). -/
def msixDefault (off : Nat) : Byte := if off % 16 = 12 then 1 else 0
/-- Vector `v` signals, or its pending bit is set while it is masked (R320). -/
def State.signal (v : Nat) (s : State) : State :=
  if (Tab.get (msixDefault (16 * v + 12)) (16 * v + 12) s.msixTable).getLsbD 0 then
    { s with msixPending := Tab.put 0 (v / 8) (Tab.get 0 (v / 8) s.msixPending ||| BitVec.ofNat 8 (2 ^ (v % 8))) s.msixPending }
  else { s with msix := s.msix ++ [v] }

/-- The fields of an error record (R300). -/
structure ErrRec where
  kind : Nat
  cause1 : Nat := 0
  cause2 : Nat := 0
  warp : Nat := 0xFF
  unit : Nat := 0
  seq : Nat := 0
  index : Nat := 0
  pc1 : DWord := 0
  addr1 : DWord := 0
  pc2 : DWord := 0
  addr2 : DWord := 0
deriving DecidableEq, Repr
def ErrRec.bytes (r : ErrRec) : List Byte :=
  leBytes 1 r.kind ++ leBytes 1 r.cause1 ++ leBytes 1 r.cause2 ++ leBytes 1 r.warp ++ leBytes 2 r.unit ++ leBytes 2 0
    ++ leBytes 8 r.seq ++ leBytes 4 r.index ++ leBytes 4 0 ++ leBytes 8 r.pc1.toNat ++ leBytes 8 r.addr1.toNat
    ++ leBytes 8 r.pc2.toNat ++ leBytes 8 r.addr2.toNat ++ leBytes 8 0
/-- A record appended to a context's ring, or counted as dropped when the ring is full (R317). -/
def State.errRecord (ctx : Nat) (r : ErrRec) (s : State) : State :=
  let c := s.ctxAt ctx
  if c.errn ≤ (c.errTail - c.errHead).toNat then s.setCtxAt ctx { c with errDrop := c.errDrop + 1 }
  else ((s.writeMem (c.err + 64 * (c.errTail.toNat % c.errn)) r.bytes).setCtxAt ctx { c with errTail := c.errTail + 1 }).signal 1

/-! Scratchpad (R94 to R99). `core` is 64 times die plus core; `p` a physical offset. -/

/-- The allocation's size (R98). -/
def allocSize (loc warps : Nat) : Nat := (loc + 256 * warps + 1023) / 1024 * 1024
/-- Local offset of warp `j`'s frame slot (R98). -/
def Wg.frame (g : Wg) (j : Nat) : Nat := g.alloc - 256 * (j + 1)
def State.padRead (s : State) (core p n : Nat) : List Byte := Tab.getN 0 p n (s.coreAt core).pad
/-- The words of 16 bytes that a span covers wholly. -/
def wholeWords (p n : Nat) : Nat × Nat := ((p + 15) / 16, (p + n) / 16)
/-- A write; a word all of whose bytes it replaces is no longer poisoned and holds no latent error (R97). -/
def State.padWrite (s : State) (core p : Nat) (b : List Byte) : State :=
  let c := s.coreAt core
  let (lo, hi) := wholeWords p b.length
  s.setCoreAt core { c with
    pad := Tab.putN 0 p b c.pad
    poison := c.poison.filter fun w => w < lo || hi ≤ w
    latent := c.latent.filter fun w => w.1 < lo || hi ≤ w.1 }
/-- Some word of the span is poisoned. -/
def Core.poisoned (c : Core) (p n : Nat) : Bool := c.poison.any fun w => p < 16 * w + 16 && 16 * w < p + n
/-- A write of poison over whole words (R116). -/
def State.padPoison (s : State) (core w : Nat) : State :=
  let c := s.coreAt core
  s.setCoreAt core { c with poison := if c.poison.contains w then c.poison else c.poison ++ [w] }

/-- A check bank's byte (R95): computed from the eight data banks of the stripe, its one home. -/
def gfDouble (x : Byte) : Byte := if x.getLsbD 7 then (x <<< 1) ^^^ 0x1D else x <<< 1
def gfScale : Nat → Byte → Byte
  | 0, x => x
  | k + 1, x => gfDouble (gfScale k x)
def State.checkByte (s : State) (core stripe row b : Nat) : Byte :=
  (List.range 8).foldl (fun acc k => acc ^^^ gfScale k (Tab.get 0 (1024 * row + 16 * (8 * stripe + k) + b) (s.coreAt core).pad)) 0

/-! Atomics, and reductions on their way (R111, R215, R235, R236). -/

/-- Signed and unsigned minimum and maximum. -/
def minS {n : Nat} (a b : BitVec n) : BitVec n := if a.slt b then a else b
def maxS {n : Nat} (a b : BitVec n) : BitVec n := if a.slt b then b else a
def minU {n : Nat} (a b : BitVec n) : BitVec n := if a.ult b then a else b
def maxU {n : Nat} (a b : BitVec n) : BitVec n := if a.ult b then b else a
/-- The new word of an atomic (R111, R235); `cmp` is the compare value of CAS. fmode is never read. -/
def aopNew (op : AOp) {n : Nat} (old x cmp : BitVec n) : BitVec n :=
  match op with
  | .add => old + x
  | .and => old &&& x
  | .or => old ||| x
  | .xor => old ^^^ x
  | .min => minS old x
  | .max => maxS old x
  | .minu => minU old x
  | .maxu => maxU old x
  | .xchg => x
  | .cas => if old = cmp then x else old
  | .fadd => BitVec.ofNat n (F32.add .rne false old.toNat x.toNat)
  | .fmin => BitVec.ofNat n (F32.minMax false false old.toNat x.toNat)
  | .fmax => BitVec.ofNat n (F32.minMax true false old.toNat x.toNat)
/-- One atomic on a word of memory: its old value. -/
def State.atomicAt (s : State) (key : Nat) (op : AOp) (w64 : Bool) (x cmp : DWord) : DWord × State :=
  let n := if w64 then 8 else 4
  let old : DWord := BitVec.ofNat 64 (leNat (s.readMem key n))
  let new : Nat := if w64 then (aopNew op old x cmp).toNat
    else (aopNew op (old.setWidth 32) (x.setWidth 32) (cmp.setWidth 32)).toNat
  (old, s.writeMem key (leBytes n new))

/-- The partition unit at a line's home, as a UNIT number (R301, R368). -/
def homeUnit (key : Nat) : Nat :=
  let tier := key / 2 ^ 52
  let off := key % 2 ^ 52
  let die := if tier = 0 then off / 0x14_0000_0000 else (Config.homeDie tier (off / 64)).toNat
  4 * 2 ^ 12 + 2 ^ 8 * die + (Config.homeSlice tier (off / 64)).toNat
/-- A memory key as a location (R317): the tier in bits 63:62. -/
def location (key : Nat) : DWord := BitVec.ofNat 64 (key / 2 ^ 52 * 2 ^ 62 + key % 2 ^ 52)

/-- A reduction applied at its partition unit (R236): a poisoned line is left as it is and reported (R302). -/
def State.applyRed (r : Red) (s : State) : State :=
  if s.linePoisoned r.addr then
    let g := s.wgAt r.wg
    s.errRecord g.ctx { kind := 3, cause1 := 0x38, cause2 := 0x38, unit := homeUnit r.addr, seq := g.seq, index := g.index
                        addr2 := location (r.addr / 64 * 64) }
  else r.xs.foldl (fun s x => (s.atomicAt r.addr r.op r.w64 x 0).2) s
def redBytes (r : Red) : Nat := if r.w64 then 8 else 4
/-- Those of `now` are applied in order, and `later` stay on their way. -/
def State.performReds (now later : List Red) (s : State) : State :=
  if now.isEmpty then s else now.foldl (fun s r => s.applyRed r) { s with reds := later }
/-- The reductions that `p` picks are applied in order and leave the queue. -/
def State.drainReds (p : Red → Bool) (s : State) : State := s.performReds (s.reds.filter p) (s.reds.filter fun r => !p r)
/-- Warp `k`'s reductions are applied: before a release, a barrier or a command (R217 to R219). -/
def State.flushReds (k : Nat) (s : State) : State := s.drainReds fun r => 32 * r.wg + r.warp = k
/-- The reductions of warp `k` that must come before accesses to the spans, apart from the others: those that overlap one, and
any that overlaps a later one of those (R215); and all the spans. -/
def pickOver (k : Nat) (spans : List (Nat × Nat)) : List Red → List Red × List Red × List (Nat × Nat)
  | [] => ([], [], spans)
  | r :: rest =>
    let (now, later, spans) := pickOver k spans rest
    if 32 * r.wg + r.warp = k ∧ spans.any (fun p => p.1 < r.addr + redBytes r && r.addr < p.1 + p.2)
    then (r :: now, later, (r.addr, redBytes r) :: spans) else (now, r :: later, spans)
/-- They are applied, in program order: the same-bytes rule (R215). -/
def State.flushOver (k : Nat) (spans : List (Nat × Nat)) (s : State) : State :=
  let (now, later, _) := pickOver k spans s.reds
  s.performReds now later

/-- A core's instruction caches lose every line of a context (R314, R321). -/
def State.dropCode (core ctx : Nat) (s : State) : State :=
  let c := s.coreAt core
  s.setCoreAt core { c with icache := c.icache.filter fun l => l.ctx ≠ ctx }

/-! Traps: the queue, the broadcast, delivery (R286 to R299). -/

/-- Warp keys of a workgroup. -/
def Wg.keys (n : Nat) (g : Wg) : List Nat := (List.range g.fp.warps).map fun j => 32 * n + j
/-- The keys of every resident warp of a core. -/
def State.residentWarps (s : State) (core : Nat) : List Nat :=
  s.wgs.flatMap fun (n, g) => if (g.place = .resident ∨ g.place = .draining) ∧ g.core = core then g.keys n else []

/-- What is dispatched and not retired has no effect (R157, R290, R295): the warp is unbound and holds no instruction. -/
def Warp.squash (w : Warp) : Warp := { w with stint := none, stall := none, fetched := [], rob := [], held := none }
/-- A wait that an asynchronous entry abandons: at AWAIT, BWAIT, JOIN, LDF, or at a LAUNCH on a full queue (R291). -/
def Run.abandons (r : Run) (full : Bool) : Bool :=
  match r with
  | .await .. | .bwait .. | .join _ | .ldf => true
  | .launch .. => full
  | _ => false
/-- The wait is abandoned: the warp is at the instruction again, which has had no effect (R291). -/
def Warp.abandon (w : Warp) : Warp := { w with run := .running, fetched := [], held := none }
/-- The workgroup's pending-launch queue holds four entries (R269). -/
def Wg.full (g : Wg) : Bool := 4 ≤ g.launchQ.length
/-- An asynchronous event enters a warp's queue (R289 to R291): discarded with OVF when seven are held; it abandons a
blocking wait outside handler mode. In a workgroup that drains, the warp receives it on resumption. -/
def State.asyncEntry (k : Nat) (cause : Byte) (detail : DWord) (s : State) : State :=
  let w := s.warpAt k
  if w.run = .exited then s
  else if 7 ≤ (w.trapQ.filter (·.async)).length then s.setWarpAt k { w with ovf := true }
  else
    let w := { w with trapQ := w.trapQ ++ [{ cause := cause, pc := 0, detail := detail, async := true }] }
    let g := s.wgAt (wgOf k)
    s.setWarpAt k (if !w.handler && g.place = .resident && w.run.abandons g.full then w.abandon else w)

/-- A bank newly marked failed: a record to each context with a workgroup on the core, and a notice to each resident
warp (R96, R304; log 14). -/
def State.bankFailed (core bank : Nat) (s : State) : State :=
  let c := s.coreAt core
  let s := s.setCoreAt core { c with failed := c.failed ++ [bank] }
  let ctxs := (s.wgs.filterMap fun (_, g) =>
    if (g.place = .resident ∨ g.place = .draining) ∧ g.core = core then some g.ctx else none).dedup
  let s := ctxs.foldl (fun s x => s.errRecord x { kind := 6, cause1 := 0x39, unit := core, addr1 := BitVec.ofNat 64 bank }) s
  (s.residentWarps core).foldl (fun s k => s.asyncEntry k 0x39 (BitVec.ofNat 64 bank)) s

/-- A bank reads a word (R96, R97): a word with a latent error is rebuilt and counted, or its bank is marked failed. Where a
second word of the stripe row fails its check as well, or a bank of the stripe has failed, none of them can be rebuilt, and
each becomes poison. -/
def State.verifyWord (core : Nat) (s : State) (word : Nat) : State :=
  let c := s.coreAt core
  let bank := word % 64
  let others := c.latent.filter fun e => e.1 ≠ word && e.1 / 64 = word / 64 && e.1 % 64 / 8 = bank / 8
  let otherFailed := c.failed.any fun b => b ≠ bank && b / 8 = bank / 8
  let lost := fun (s : State) => others.foldl (fun s e => s.padPoison core e.1) (s.padPoison core word)
  match c.latent.find? (·.1 = word) with
  | none => if c.failed.contains bank && !others.isEmpty then lost s else s
  | some (_, again) =>
    let c' := { c with latent := c.latent.filter (·.1 ≠ word) }
    if c.poison.contains word then s
    else if !others.isEmpty || otherFailed then lost s
    else if c.failed.contains bank then s.setCoreAt core c'
    else if again then (s.setCoreAt core c').bankFailed core bank
    else s.setCoreAt core { c' with cerr := c'.cerr + 1 }
/-- The words of a span read in ascending order. -/
def State.verify (core p n : Nat) (s : State) : State :=
  if (s.coreAt core).latent.isEmpty then s
  else (List.range ((p + n + 15) / 16 - p / 16)).foldl (fun s i => s.verifyWord core (p / 16 + i)) s

/-- An arrival at the object at physical offset `obj` (R68, R69): `f` is POISON, BOUND, CORRUPT. -/
def arriveWord (w0 arm n f : Nat) : Nat :=
  let rem := sext 48 w0 - (n : Int)
  let flip := 0 < n ∧ rem ≤ 0
  let rem := if flip then sext 48 arm + rem else rem
  let hi := w0 / 2 ^ 48 ||| f * 2 ^ 9
  (BitVec.ofInt 48 rem).toNat + 2 ^ 48 * (if flip then hi ^^^ 2 ^ 8 else hi)
def State.arrive (core obj n : Nat) (f : BitVec 3) (s : State) : State :=
  let s := s.verify core obj 16
  s.padWrite core obj (leBytes 8 (arriveWord (leNat (s.padRead core obj 8)) (leNat (s.padRead core (obj + 8) 8)) n f.toNat))

/-- The default policies of R286. -/
inductive Policy where | handle | haltGroup | kill
deriving DecidableEq, Repr
def defaultPolicy (cause : Byte) : Policy :=
  if cause = 0x05 ∨ cause = 0x28 ∨ cause = 0x29 ∨ cause = 0x39 then .handle else .haltGroup
def policyOf (vec : DWord) (cause : Byte) : Policy :=
  match vec.toNat % 4 with | 0 => defaultPolicy cause | 1 => .handle | 2 => .haltGroup | _ => .kill

/-- The frame or halt record of R293. -/
def frameBytes (cause : Byte) (flags skid depth : Nat) (own : Byte) (pc : DWord) (iw : List Word) (exec lanes addr
    detail : DWord) : List Byte :=
  [cause, BitVec.ofNat 8 flags, BitVec.ofNat 8 skid, BitVec.ofNat 8 depth, own, 0, 0, 0] ++ leBytes 8 pc.toNat
    ++ ((iw ++ [0, 0, 0]).take 3).flatMap (fun (w : Word) => leBytes 4 w.toNat) ++ leBytes 4 0 ++ leBytes 8 exec.toNat
    ++ leBytes 8 lanes.toNat ++ leBytes 8 addr.toNat ++ leBytes 8 detail.toNat

/-- A warp that has not exited and is not halted (R295). -/
def Run.live : Run → Bool | .exited | .halted .. => false | _ => true
/-- Every other warp of the workgroup is exited or halted. -/
def State.siblingsStopped (s : State) (k : Nat) : Bool :=
  ((s.wgAt (wgOf k)).keys (wgOf k)).all fun j => j = k || !(s.warpAt j).run.live

/-- A HALTED report, once, of a workgroup whose warps are all halted or exited after a broadcast; after a double fault its
record comes first (R296, R298, R300). -/
def State.reportHalted (n : Nat) (s : State) : State :=
  let g := s.wgAt n
  match g.haltBy with
  | none => s
  | some h =>
    if g.reported ∨ !(g.keys n).all (fun j => !(s.warpAt j).run.live) then s
    else
      let r : ErrRec := { kind := 4, cause1 := h.trap.cause.toNat, warp := h.warp, unit := g.core, seq := g.seq, index := g.index
                          pc1 := h.trap.pc, addr1 := h.trap.addr }
      let s := s.setWgAt n { g with reported := true }
      (match h.double with
      | some (c, pc, a) => s.errRecord g.ctx { r with kind := 1, cause2 := c, pc2 := pc, addr2 := a }
      | none => s).errRecord g.ctx r

/-- A warp that has received a halt notice stops: its halt record is written (R295, R296). -/
def State.haltStop (k : Nat) (own : Byte) (s : State) : State :=
  let w := s.warpAt k
  let g := s.wgAt (wgOf k)
  let inBar := match w.run with | .bar c d => some (c, d) | _ => none
  let s := s.padWrite g.core (g.base + g.frame (warpNo k) + 64)
    (frameBytes 0x30 (if inBar.isSome then 4 else 0) (w.notice.getD 0) w.trapQ.length own w.pc [] w.exec 0 0 0)
  (s.setWarpAt k { w.squash with run := .halted inBar false, notice := none, own := own }).reportHalted (wgOf k)

/-- The synchronous fault that a warp has raised, while it waits for delivery (R290). -/
def Warp.raised (w : Warp) : Option TrapEntry :=
  match w.trapQ with | e :: _ => if e.async then none else some e | [] => none
/-- A raised fault is not delivered: the warp stops as a halted sibling, with the cause in OWN (R295, R297). -/
def State.haltRaised (k : Nat) (s : State) : State :=
  let w := s.warpAt k
  match w.raised with
  | some e => (s.setWarpAt k { w with trapQ := w.trapQ.tail }).haltStop k e.cause
  | none => s.haltStop k 0

/-- The notices of a broadcast (R295): a warp at a blocking point, or with a fault raised, stops at once, with skid 0. -/
def State.broadcast (k : Nat) (h : HaltBy) (s : State) : State :=
  let g := s.wgAt (wgOf k)
  let s := s.setWgAt (wgOf k) { g with haltBy := some h }
  (g.keys (wgOf k)).foldl (fun s j =>
    let w := s.warpAt j
    if j = k ∨ !w.run.live ∨ w.notice.isSome then s
    else
      let s := s.setWarpAt j { w with notice := some 0 }
      if w.run = .running ∧ w.raised = none then s else s.haltRaised j) s

/-- A double fault of warp `k` (R298): it stops, the others are told, and once all have stopped the record and the report
are written; the workgroup stays halted. `t` is the original trap. -/
def State.doubleFault (k : Nat) (t : TrapEntry) (cause2 : Nat) (pc2 addr2 : DWord) (s : State) : State :=
  let g := s.wgAt (wgOf k)
  let s := s.setWarpAt k { (s.warpAt k).squash with run := .halted none false, notice := none }
  let s := s.setWgAt (wgOf k) { g with dead := true, reported := false }
  (s.broadcast k ⟨warpNo k, t, none, some (cause2, pc2, addr2)⟩).reportHalted (wgOf k)

/-- The grids that a set of grids launched, added to it `fuel` levels down; depth is at most 4 (R274). -/
def State.descend (s : State) : (fuel : Nat) → List Nat → List Nat
  | 0, l => l
  | n + 1, l => s.descend n (l ++ (s.grids.filter fun (q, g) => !l.contains q && (g.parent.any l.contains)).map Prod.fst)
/-- A grid is killed with every unfinished grid it launched (R285): resident workgroups are halted, pending launches
discarded, evicted workgroups' areas freed. -/
def State.killGrid (q : Nat) (s : State) : State :=
  let qs := s.descend 5 [q]
  let mark (p : Nat × Grid) : Nat × Grid := (p.1, { p.2 with killed := p.2.killed || qs.contains p.1 })
  let s := { s with grids := s.grids.map mark }
  let victims : Tab Wg := s.wgs.filter fun p => qs.contains p.2.seq && p.2.place ≠ .finished
  victims.foldl (fun (s : State) (p : Nat × Wg) =>
    let n := p.1
    let g := p.2
    if g.place = .evicted ∨ g.place = .resumable then
      s.setWgAt n { g with place := .finished, area := none, saved := [], launchQ := [] }
    else
      (g.keys n).foldl (fun s j =>
        let w := s.warpAt j
        if w.run = .exited then s
        else s.setWarpAt j { w.squash with run := .halted none false, notice := none, sleep := none })
        (s.setWgAt n { g with launchQ := [], dead := true })) s

/-- The KILL record and the kill (R288). -/
def State.killBy (k : Nat) (e : TrapEntry) (s : State) : State :=
  let g := s.wgAt (wgOf k)
  (s.errRecord g.ctx { kind := 2, cause1 := e.cause.toNat, warp := warpNo k, unit := g.core, seq := g.seq, index := g.index
                       pc1 := e.pc, addr1 := e.addr }).killGrid g.seq

/-- The head entry as it is delivered: an asynchronous one takes the boundary's PC and exec (R289). -/
def Warp.headEntry (w : Warp) : Option TrapEntry :=
  w.trapQ.head?.map fun e => if e.async then { e with pc := w.pc, exec := w.exec } else e

/-- The frame of the head entry written to the frame slot; the entry leaves the queue (R292, R293). -/
def State.writeFrame (k : Nat) (e : TrapEntry) (s : State) : State :=
  let w := s.warpAt k
  let g := s.wgAt (wgOf k)
  let flags := (if w.ovf then 1 else 0) + (if e.async then 2 else 0)
  let s := s.padWrite g.core (g.base + g.frame (warpNo k))
    (frameBytes e.cause flags 0 (w.trapQ.length - 1) 0 e.pc e.iw e.exec e.lanes e.addr e.detail)
  s.setWarpAt k { w.squash with trapQ := w.trapQ.tail, ovf := false, texec := w.exec, tpc := e.pc, handling := some e
                                sleep := none, run := .running }

/-- Taking the exception: the rest of R292. -/
def State.enterHandler (k : Nat) (e : TrapEntry) (vec : DWord) (s : State) : State :=
  let g := s.wgAt (wgOf k)
  let s := s.writeFrame k e
  let w := s.warpAt k
  s.setWarpAt k { w with
    exec := wmask g.fp.width
    hs := Tab.put 0 1 (e.cause.setWidth 64) (Tab.put 0 0 (BitVec.ofNat 64 (g.frame (warpNo k))) w.hs)
    handler := true
    pc := vec &&& ~~~3 }

/-- A stop for the debugger that has claimed the cause: the frame is written, the warp is halted, and its event waits
for the ring (R288, R321). -/
def State.debugStop (k : Nat) (e : TrapEntry) (s : State) : State :=
  let g := s.wgAt (wgOf k)
  let s := s.writeFrame k e
  let s := s.setWarpAt k { s.warpAt k with run := .halted none true }
  let c := s.ctxAt g.ctx
  s.setCtxAt g.ctx { c with debugger := c.debugger.map fun d => { d with waiting := d.waiting ++ [(k, e)] } }

/-- What reading a vector entry gives (R287, R288). -/
inductive VecRead where | ok (v : DWord) | bad (cause : Nat) | wait
deriving DecidableEq, Repr
def State.readVector (k : Nat) (cause : Byte) (s : State) : VecRead :=
  let g := s.wgAt (wgOf k)
  let tvb := (s.warpAt k).tvb
  if tvb = 0 then .ok 0
  else match s.xlate g.core g.ctx (tvb + 8 * cause.setWidth 64) 8 .read with
    | .wait => .wait
    | .bad c => .bad c
    | .ok key _ => if s.linePoisoned key then .bad 0x38 else .ok (BitVec.ofNat 64 (leNat (s.readMem key 8)))

/-- The warp's own reductions on its vector entry come first, as before any load of its (R215, R288). -/
def State.flushVector (k : Nat) (cause : Byte) (s : State) : State :=
  let g := s.wgAt (wgOf k)
  let va := (s.warpAt k).tvb + 8 * cause.setWidth 64
  match s.xlate g.core g.ctx va 8 .read with
  | .ok key _ => if (s.warpAt k).tvb = 0 then s else s.flushOver k [(key, 8)]
  | _ => s

/-- What the policy makes of an entry whose vector has been read (R288), the broadcast apart. -/
def State.enterOrKill (k : Nat) (e : TrapEntry) (vec : DWord) (s : State) : State :=
  if vec.toNat < 4 then s.killBy k e else s.enterHandler k e vec
/-- The context's debugger has claimed the cause (R288, R321). -/
def State.claimed (s : State) (ctx : Nat) (cause : Byte) : Bool :=
  (s.ctxAt ctx).debugger.any fun d => d.claims.getLsbD cause.toNat
/-- A HALT_GROUP trap that its workgroup's halt controller accepts: the broadcast, and then the handler, once every
sibling has stopped, or the kill (R288, R295, R296). -/
def State.haltGroup (k : Nat) (e : TrapEntry) (vec : DWord) (s : State) : State :=
  let s := s.broadcast k ⟨warpNo k, e, some vec, none⟩
  if vec.toNat < 4 then s.killBy k e else if s.siblingsStopped k then s.enterHandler k e vec else s
/-- The HALT_GROUP trap that warp `k` has raised and nobody has decided, with its vector entry (R297). -/
def State.undecided (s : State) (k : Nat) : Option (Nat × TrapEntry × DWord) :=
  let w := s.warpAt k
  match w.raised with
  | some e =>
    if w.handler || w.run ≠ .running || w.notice.isSome || s.claimed (s.wgAt (wgOf k)).ctx e.cause then none
    else match s.readVector k e.cause with
    | .ok vec => if policyOf vec e.cause = .haltGroup then some (k, e, vec) else none
    | _ => none
  | none => none

/-- Each warp that has raised a fault reads its vector entry after its own reductions on it (R215, R288). -/
def State.flushRaised (n : Nat) (s : State) : State :=
  ((s.wgAt n).keys n).foldl (fun s j => match (s.warpAt j).raised with | some e => s.flushVector j e.cause | none => s) s
/-- Deliver the head entry of a warp's queue (R288, R292). Nothing is delivered to a warp in handler mode, halted, exited
or told to halt. A HALT_GROUP trap enters its handler once every sibling has stopped (R296): until then, and while the
vector's page migrates, the entry stays at the head. Of the undecided HALT_GROUP traps of a workgroup the lowest-numbered
warp's is accepted (R297; log 31). -/
def State.deliver (k : Nat) (s : State) : State :=
  let w := s.warpAt k
  let n := wgOf k
  let g := s.wgAt n
  match w.headEntry with
  | none => s
  | some e =>
    if w.handler ∨ w.run ≠ .running ∨ w.notice.isSome then s
    else if s.claimed g.ctx e.cause then s.debugStop k e
    else match g.haltBy.filter (fun h => h.warp = warpNo k) with
    | some ⟨_, _, some vec, _⟩ => if s.siblingsStopped k then s.enterOrKill k e vec else s
    | _ =>
      let s := s.flushVector k e.cause
      match s.readVector k e.cause with
      | .wait => s.setWarpAt k { w with stall := some .migrate }
      | .bad c => s.doubleFault k e c e.pc (w.tvb + 8 * e.cause.setWidth 64)
      | .ok vec =>
        match policyOf vec e.cause with
        | .kill => s.killBy k e
        | .handle =>
          if vec.toNat < 4 ∧ e.async ∧ (e.cause = 0x39 ∨ e.cause = 0x28) then
            s.setWarpAt k { w with trapQ := w.trapQ.tail }
          else s.enterOrKill k e vec
        | .haltGroup =>
          if g.haltBy.isSome then s.haltRaised k
          else
          let s := s.flushRaised n
          match (g.keys n).findSome? s.undecided with
          | some (j, e', v) => if j < k then s.haltGroup j e' v else s.haltGroup k e vec
          | none => s.haltGroup k e vec

/-- TAKING AN EXCEPTION: a synchronous fault of the executing warp at its instruction (R286 to R298). After a halt notice
the warp stops there with its cause in OWN; in handler mode it is a double fault; else it is delivered. -/
def State.raise (cause : Byte) (lanes addr : DWord) (s : State) : State :=
  let w := s.warp
  let e : TrapEntry := { cause := cause, pc := w.pc, addr := addr, lanes := lanes, exec := w.exec, iw := s.iw }
  if w.notice.isSome then s.haltStop s.cur cause
  else if w.handler then s.doubleFault s.cur (w.handling.getD e) cause.toNat w.pc addr
  else (s.setWarp { w.squash with trapQ := e :: w.trapQ }).deliver s.cur
/-- A fault of the whole warp: the lanes are exec (R28). -/
def State.raiseW (cause : Byte) (addr : DWord) (s : State) : State := s.raise cause s.warp.exec addr

/-- Warps halted by warp `j`'s broadcast resume (R296). -/
def State.releaseHalted (n j : Nat) (s : State) : State :=
  let g := s.wgAt n
  match g.haltBy with
  | some h =>
    if h.warp ≠ j then s
    else (g.keys n).foldl (fun s i =>
      let w := s.warpAt i
      match w.run with
      | .halted (some (c, d)) false => s.setWarpAt i { w with run := .bar c d, own := 0 }
      | .halted none false => s.setWarpAt i { w with run := .running, own := 0 }
      | _ => s) (s.setWgAt n { g with haltBy := none, reported := false })
  | none => s

/-- RETURN FROM AN EXCEPTION (R310) to an address already checked: normal mode, exec from texec, the siblings released.
The next queued entry is delivered before any instruction there. -/
def State.leaveHandler (k : Nat) (pc : DWord) (s : State) : State :=
  let w := s.warpAt k
  let s := s.setWarpAt k { w.squash with handler := false, exec := w.texec, pc := pc, handling := none, run := .running }
  (s.releaseHalted (wgOf k) (warpNo k)).deliver k

/-! The end of an instruction. -/

/-- The stint after one more instruction has been dispatched, which ends it itself or not (R246). -/
def nextStint (stint : Option Nat) (ends : Bool) : Option Nat :=
  stint.bind fun n => if ends ∨ 24 ≤ n + 1 then none else some (n + 1)
/-- The executing instruction retires (R157): the oldest of the reorder buffer leaves it, while one that was not dispatched
ahead of the older ones is dispatched in the same step and counts in its stint (R246, R247); the skid of a told warp (R295). -/
def Warp.retired (w : Warp) (ends : Bool) : Warp :=
  { w with
    stall := none
    fetched := []
    held := none
    rob := w.rob.tail
    stint := if w.rob = [] then nextStint w.stint ends else w.stint
    notice := w.notice.map (· + 1) }
/-- The executing warp goes on at `pc`; `ends` says that its stint ends. -/
def State.goto (pc : DWord) (ends : Bool) (s : State) : State := s.setWarp ({ s.warp with pc := pc }.retired ends)
/-- It waits with its instruction, fetched once, in rename, dispatch or translation (R13, R157, R247). -/
def State.stallOn (why : Wait) (s : State) : State := s.setWarp { s.warp with stall := some why, fetched := s.iw }
/-- It blocks at its instruction, `len` bytes long, which has not retired (R248, R259): the stint has ended. An asynchronous
entry that waits in its queue outside handler mode abandons the wait at once, and the next boundary is here (R289, R291). -/
def State.block (r : Run) (len : Nat) (s : State) : State :=
  let w := { s.warp.squash with run := r, blkLen := len, fetched := s.iw }
  s.setWarp (if !w.handler && !w.trapQ.isEmpty && r.abandons s.wg.full then w.abandon else w)

/-! ACT and ACTLD (R184). -/

/-- An ACT on the bank that another warp of the core dispatched by number `n` is in flight. -/
def State.actsInFlight (s : State) (bank : Bool) (n : Nat) : Bool :=
  (s.residentWarps s.wg.core).any fun k => k ≠ s.cur && (s.warpAt k).rob.any fun e => match e.sepia with
    | some (.act b p) => b = bank && p ≤ n
    | _ => false
/-- The number of the executing ACT: that of its dispatch, or the next one. -/
def State.actNo (s : State) : Nat :=
  match s.warp.rob.head?.bind RobEntry.sepia with
  | some (.act _ p) => p
  | _ => s.nextCmd
/-- An ACTLD of the bank, of another warp of the core, had come to wait before the executing ACT was dispatched. -/
def State.actHeld (s : State) (bank : Bool) : Bool :=
  (s.residentWarps s.wg.core).any fun k => k ≠ s.cur && match (s.warpAt k).stall with
    | some (.sepia b n) => b = bank && n < s.actNo
    | _ => false
/-- The number at which the executing ACTLD came to wait: now, unless it waits already. -/
def State.actldNo (s : State) (bank : Bool) : Nat :=
  match s.warp.stall with
  | some (.sepia b n) => if b = bank then n else s.nextCmd
  | _ => s.nextCmd
/-- The executing ACTLD waits for the ACTs in flight; later ones have higher numbers. -/
def State.stallSepia (bank : Bool) (s : State) : State :=
  { s.stallOn (.sepia bank (s.actldNo bank)) with nextCmd := Nat.max s.nextCmd (s.actldNo bank + 1) }

end Sys2Proof.Machine
end

