-- ==== Sys2Proof/Machine/Operands.lean ====
section
/-! DEFINITION. Operand forms (R16, R19, R20, R23), the shape-tag rules of sources and results (R160 to R163), and the
end of an instruction that goes on to the next. -/

namespace Sys2Proof.Machine

/-- What a meaning returns. -/
abbrev Res := Host.Outcome State Fault Refusal

/-- The operands of an instruction in any form: its length in bytes and its fields. -/
structure Opd where
  len : Nat
  s : Bool
  u : Bool
  d : Reg
  a : Src
  b : Src
  c : Src
deriving DecidableEq, Repr

/-- A W or E word's (R17, R18). -/
def opd (f : Ops) : Opd := ⟨if f.form = .w then 8 else 12, f.s, f.u, f.d, f.a, f.b, f.c⟩
/-- A C-form word's fields as R16 builds them: classes vv, v, ss, s, sv of A and B, or neither used. -/
def copdVV (f : COps) : Opd := ⟨4, f.s, f.u, f.d, .vec f.a .ident, .vec f.b .ident, Src.zero⟩
def copdV (f : COps) : Opd := ⟨4, f.s, f.u, f.d, .vec f.a .ident, Src.zero, Src.zero⟩
def copdSS (f : COps) : Opd := ⟨4, f.s, f.u, f.d, .sca f.a, .sca f.b, Src.zero⟩
def copdS (f : COps) : Opd := ⟨4, f.s, f.u, f.d, .sca f.a, Src.zero, Src.zero⟩
def copdSV (f : COps) : Opd := ⟨4, f.s, f.u, f.d, .sca f.a, .vec f.b .ident, Src.zero⟩
def copdN (f : COps) : Opd := ⟨4, f.s, f.u, f.d, Src.zero, Src.zero, Src.zero⟩

/-- The lane that lane `l` reads through a pattern (R20). -/
def srcLane (w : Nat) (p : Pat) (l : Nat) : Nat :=
  match p with
  | .ident => l
  | .rot p => (l + p.toNat) % w
  | .bc p => p.toNat % w
  | .bfly p => l ^^^ p.toNat
  | .mir p => l ^^^ (2 ^ p.toNat - 1)

/-- Operand(f, l) as 32 bits, for vector instructions; immediates are sign-extended (R20). -/
def lane32 (w : Warp) (width : Nat) (f : Src) (l : Nat) : Word :=
  match f with
  | .vec r p => (readV w r).lane (srcLane width p l)
  | .sca r => (readS w r).setWidth 32
  | .imm v => v.signExtend 32
  | .lit v => v
/-- Operand(f, l) as 64 bits: a scalar whole, an immediate sign-extended, a vector pair (R20, R30). -/
def lane64 (w : Warp) (width : Nat) (f : Src) (l : Nat) : DWord :=
  match f with
  | .vec r p => (readV w (r + 1)).lane (srcLane width p l) ++ (readV w r).lane (srcLane width p l)
  | .sca r => readS w r
  | .imm v => v.signExtend 64
  | .lit v => v.signExtend 64
/-- Operand(f) of a scalar, immediate or literal field, 64 bits (R20). -/
def sval (w : Warp) (f : Src) : DWord :=
  match f with
  | .sca r => readS w r
  | .imm v => v.signExtend 64
  | .lit v => v.signExtend 64
  | .vec r p => ((readV w r).lane (srcLane 64 p 0)).setWidth 64
/-- The register number of a field that names a register, tile descriptor or accumulator tile. -/
def numOf : Src → Nat
  | .vec r _ => r.toNat
  | .sca r => r.toNat
  | _ => 0
/-- The field is the all-zero field (R23). -/
def absent (f : Src) : Bool := f == Src.zero

/-! Shape tags. -/

/-- The tag and value of a source as R161 counts them; `gen` has none. -/
inductive Shape where | uni (u : Word) | aff (b s : Word) | gen
deriving DecidableEq, Repr
def VReg.shape : VReg → Shape
  | .uni u => .uni u | .aff b s => .aff b s | .gen _ => .gen
def shapeOf (w : Warp) (f : Src) : Shape :=
  match f with
  | .vec r .ident => (readV w r).shape
  | .vec _ _ => .gen
  | .sca r => .uni ((readS w r).setWidth 32)
  | .imm v => .uni (v.signExtend 32)
  | .lit v => .uni v
def Shape.isUni : Shape → Bool | .uni _ => true | _ => false

/-- A vector source of an instruction for R163: its field's index, the field, and whether it is a pair. -/
abbrev USrc := Nat × Src × Bool
/-- The source is a vector register that counts as other than UNI. -/
def nonUni (w : Warp) (x : USrc) : Bool :=
  match x.2.1 with
  | .vec r p => !(shapeOf w (.vec r p)).isUni || (x.2.2 && !(shapeOf w (.vec (r + 1) p)).isUni)
  | _ => false
/-- The first offending field (R163). -/
def firstNonUni (w : Warp) (l : List USrc) : Option Nat := (l.find? (nonUni w)).map Prod.fst

/-- The bit of lane `l` in exec. -/
def Warp.active (w : Warp) (l : Nat) : Bool := w.exec.getLsbD l
/-- The active lanes, ascending. -/
def Warp.lanes (w : Warp) (width : Nat) : List Nat := (List.range width).filter w.active
/-- The lanes an instruction's body runs for: lane 0 alone under U (R30). -/
def bodyLanes (w : Warp) (width : Nat) (u : Bool) : List Nat := if u then [0] else w.lanes width

/-- A vector register written under exec (R162): `f l` is lane `l`'s result, `full` the register's contents when every
lane is written without U. With U the result of lane 0 is written to every active lane. -/
def vputReg (width : Nat) (exec : DWord) (u : Bool) (full : VReg) (f : Nat → Word) (old : VReg) : VReg :=
  if exec = 0 then old
  else if exec ≠ wmask width then
    .gen ((List.range width).map fun l => if exec.getLsbD l then f (if u then 0 else l) else old.lane l)
  else if u then .uni (f 0) else full
/-- The register with one value per lane. -/
def genOf (width : Nat) (f : Nat → Word) : VReg := .gen ((List.range width).map f)
def Warp.vput (w : Warp) (width : Nat) (u : Bool) (d : Reg) (full : VReg) (f : Nat → Word) : Warp :=
  writeV w d (vputReg width w.exec u full f (readV w d))
/-- A GEN result (R162 row 9). -/
def Warp.vputGen (w : Warp) (width : Nat) (u : Bool) (d : Reg) (f : Nat → Word) : Warp :=
  w.vput width u d (genOf width f) f
/-- A 64-bit result in a pair, both registers tagged alike. -/
def Warp.vput64 (w : Warp) (width : Nat) (u : Bool) (d : Reg) (f : Nat → DWord) : Warp :=
  (w.vputGen width u d fun l => (f l).setWidth 32).vputGen width u (d + 1) fun l => (f l).extractLsb' 32 32
/-- UNI when every source is, else GEN (R162 rows 8 and 9). -/
def uniOrGen (width : Nat) (uni : Bool) (f : Nat → Word) : VReg := if uni then .uni (f 0) else genOf width f

/-! The end of an instruction. -/

/-- The next instruction's address (R12). -/
def State.nextPc (s : State) (o : Opd) : DWord := s.warp.pc + BitVec.ofNat 64 o.len
/-- On to the next instruction; S ends the stint. -/
def State.retire (o : Opd) (s : State) : State := s.goto (s.nextPc o) o.s
/-- On to the next instruction with the stint ended. -/
def State.retireEnd (o : Opd) (s : State) : State := s.goto (s.nextPc o) true
/-- The executing warp changed, and on to the next instruction. -/
def State.done (o : Opd) (w : Warp) (s : State) : State := (s.setWarp w).retire o

/-- A vector-family instruction: nothing with exec empty (R168); under U cause 0x04 for a source that is not UNI
(R163); else `k`. -/
def vecGate (o : Opd) (srcs : List USrc) (k : State → State) (s : State) : State :=
  if s.warp.exec = 0 then s.retire o
  else match if o.u then firstNonUni s.warp srcs else none with
    | some i => s.raiseW 0x04 (BitVec.ofNat 64 i)
    | none => k s

end Sys2Proof.Machine
end

