-- ==== Sys2Proof/Machine/Flags.lean ====
section
/-! DEFINITION. Lane masks, relations and bit counts: what the compares, the mask instructions and the queries compute. -/

namespace Sys2Proof.Machine

/-- The mask of the lanes below `width` for which `p` holds. -/
def maskOf (width : Nat) (p : Nat → Bool) : DWord :=
  BitVec.ofNat 64 ((List.range width).foldl (fun acc l => if p l then acc + 2 ^ l else acc) 0)
/-- A compare's result: the bit of each active lane, every other bit 0; under U lane 0's result for each (R173). -/
def cmpMask (w : Warp) (width : Nat) (u : Bool) (p : Nat → Bool) : DWord :=
  maskOf width fun l => w.active l && p (if u then 0 else l)
/-- A write to exec keeps bits 0 to W − 1 (R165). -/
def Warp.setExec (w : Warp) (width : Nat) (v : DWord) : Warp := { w with exec := v &&& wmask width }

/-- Set bits, leading zeros and trailing zeros of a value of `n` bits (R169, R173). -/
def popcount (n v : Nat) : Nat := (List.range n).countP fun i => v.testBit i
def clz (n v : Nat) : Nat := if v = 0 then n else n - 1 - v.log2
def ctz (n v : Nat) : Nat := ((List.range n).find? fun i => v.testBit i).getD n

/-- Division never traps (R170). -/
def sdivT {n : Nat} (a b : BitVec n) : BitVec n := if b = 0 then BitVec.allOnes n else a.sdiv b
def udivT {n : Nat} (a b : BitVec n) : BitVec n := if b = 0 then BitVec.allOnes n else a.udiv b
def sremT {n : Nat} (a b : BitVec n) : BitVec n := if b = 0 then a else a.srem b
def uremT {n : Nat} (a b : BitVec n) : BitVec n := if b = 0 then a else a.umod b
/-- The high half of the signed and the unsigned product. -/
def mulHigh {n : Nat} (a b : BitVec n) : BitVec n := BitVec.ofInt n (a.toInt * b.toInt / 2 ^ n)
def mulHighU {n : Nat} (a b : BitVec n) : BitVec n := BitVec.ofNat n (a.toNat * b.toNat / 2 ^ n)
/-- Sums saturated to the signed or the unsigned range (R173). -/
def satS {n : Nat} (v : Int) : BitVec n :=
  BitVec.ofInt n (if v < -2 ^ (n - 1) then -2 ^ (n - 1) else if 2 ^ (n - 1) - 1 < v then 2 ^ (n - 1) - 1 else v)
def satU {n : Nat} (v : Int) : BitVec n := BitVec.ofInt n (if v < 0 then 0 else if 2 ^ n - 1 < v then 2 ^ n - 1 else v)
/-- 1 where the relation holds. -/
def bool64 (b : Bool) : DWord := if b then 1 else 0

/-- fmode's fields (R55). -/
def Warp.rm (w : Warp) : RM := match w.fmode.toNat % 4 with | 0 => .rne | 1 => .rtz | 2 => .rup | _ => .rdn
def Warp.ftz (w : Warp) : Bool := w.fmode.getLsbD 2

end Sys2Proof.Machine
end

