-- ==== Sys2Proof/Machine/Special.lean ====
section
/-! DEFINITION. The special functions of R180 and R181. RCP, RSQ and SQRT are computed exactly with a sticky bit; the
transcendental ones in fixed point with 480 fraction bits, then rounded to nearest (log 13 says why that suffices). -/

namespace Sys2Proof.Machine

/-- Fraction bits of the fixed-point values. -/
abbrev FP : Nat := 480
/-- One. -/
def fpOne : Int := ((1 <<< FP : Nat) : Int)
/-- floor(ln 2 · 2^480), floor(π · 2^480), floor(log2 e · 2^480). -/
def fpLn2 : Int :=
  0xb17217f7d1cf79abc9e3b39803f2f6af40f343267298b62d8a0d175b8baafa2be7b876206debac98559552fb4afa1b10ed2eae35c138214427573b29
def fpPi : Int :=
  0x3243f6a8885a308d313198a2e03707344a4093822299f31d0082efa98ec4e6c89452821e638d01377be5466cf34e90c6cc0ac29b7c97c50dd3f84d5b5
def fpLog2e : Int :=
  0x171547652b82fe1777d0ffda0d23a7d11d6aef551bad2b4b1164a2cd9a342648fbc3887eeaa2ed9ac49b25eeb82d7c167d52173cc1895213f897f5e06
/-- A fixed-point product, rounded down. -/
def fpMul (a b : Int) : Int := (a * b) / fpOne

/-- The sum of `term`, `term·t/k`, `term·t²/(k(k+1))` and so on. -/
def expSum (t : Int) : (fuel k : Nat) → (term acc : Int) → Int
  | 0, _, _, acc => acc
  | n + 1, k, term, acc => expSum t n (k + 1) (fpMul term t / (k : Int)) (acc + term)
/-- 2^f for 0 ≤ f < 1. -/
def fpExp2 (f : Int) : Int := expSum (fpMul f fpLn2) 120 1 fpOne 0
/-- 2^u for any u that is at least -480. -/
def fpPow2 (u : Int) : Int :=
  let n := u / fpOne
  let r := fpExp2 (u - n * fpOne)
  if 0 ≤ n then r * ((1 <<< n.toNat : Nat) : Int) else r / ((1 <<< (-n).toNat : Nat) : Int)

/-- z + z³/3 + z⁵/5 and so on. -/
def atanhSum (z2 : Int) : (fuel k : Nat) → (p acc : Int) → Int
  | 0, _, _, acc => acc
  | n + 1, k, p, acc => atanhSum z2 n (k + 2) (fpMul p z2) (acc + p / (k : Int))
/-- t − t³/3! + t⁵/5! and so on. -/
def sinSum (t2 : Int) : (fuel k : Nat) → (p acc : Int) → Int
  | 0, _, _, acc => acc
  | n + 1, k, p, acc => sinSum t2 n (k + 2) (-(fpMul p t2) / (((k + 1) * (k + 2) : Nat) : Int)) (acc + p)
/-- sin(πr) for 0 ≤ r ≤ 1/2. -/
def fpSinPi (r : Int) : Int := let t := fpMul r fpPi; sinSum (fpMul t t) 70 1 t 0

/-- floor of the square root; `fuel` bounds the bits of the result. -/
def isqrtFrom (n : Nat) : (fuel r : Nat) → Nat
  | 0, r => r
  | i + 1, r => isqrtFrom n i (if (r + 1 <<< i) * (r + 1 <<< i) ≤ n then r + 1 <<< i else r)
def isqrt (n : Nat) : Nat := isqrtFrom n (n.log2 / 2 + 1) 0

/-- A fixed-point value as a float value. -/
def ofFp (v : Int) : FV := .fin (v < 0) v.natAbs (-(FP : Int))
/-- `m * 2^e` in fixed point, for e from -480. -/
def toFp (m : Nat) (e : Int) : Int := ((m <<< (e + (FP : Int)).toNat : Nat) : Int)

/-- The nine functions of major 0x80. -/
inductive SpecialFn where | exp2 | log2 | sinpi | cospi | rsq | rcp | sqrt | tanh | sigm
deriving DecidableEq, Repr

/-- 2^x. -/
def exp2F (neg : Bool) (m : Nat) (e : Int) : FV :=
  if 8 < e + (m.log2 : Int) then (if neg then .fin false 0 0 else .inf false)
  else
    let x := signed neg 1 * toFp m e
    let n := x / fpOne
    .fin false (fpExp2 (x - n * fpOne)).toNat (n - (FP : Int))
/-- log2 of a positive value. -/
def log2F (m : Nat) (e : Int) : FV :=
  let k := m.log2
  let z : Int := ((((m - 1 <<< k) <<< FP) / (m + 1 <<< k) : Nat) : Int)
  ofFp ((e + (k : Int)) * fpOne + fpMul (2 * atanhSum (fpMul z z) 170 1 z 0) fpLog2e)
/-- |x| mod 2 in fixed point. -/
def mod2F (m : Nat) (e : Int) : Int :=
  if 1 ≤ e then 0 else toFp m e % (2 * fpOne)
def sinpiF (neg : Bool) (m : Nat) (e : Int) : FV :=
  let r := mod2F m e
  if r = 0 ∨ r = fpOne then .fin neg 0 0
  else
    let flip := decide (fpOne < r)
    let r := if flip then r - fpOne else r
    let r := if fpOne < 2 * r then fpOne - r else r
    .fin (neg != flip) (if 2 * r = fpOne then fpOne.toNat else (fpSinPi r).toNat) (-(FP : Int))
def cospiF (m : Nat) (e : Int) : FV :=
  let r := mod2F m e
  let r := if fpOne < r then 2 * fpOne - r else r
  if 2 * r = fpOne then .fin false 0 0
  else
    let neg := decide (fpOne < 2 * r)
    let r := if neg then fpOne - r else r
    .fin neg (if r = 0 then fpOne.toNat else (fpSinPi (fpOne / 2 - r)).toNat) (-(FP : Int))
def tanhF (neg : Bool) (m : Nat) (e : Int) : FV :=
  if 4 < e + (m.log2 : Int) then .fin neg 1 0
  else
    let x := fpPow2 (fpMul (2 * toFp m e) fpLog2e)
    .fin neg (((x - fpOne) * fpOne) / (x + fpOne)).toNat (-(FP : Int))
def sigmF (neg : Bool) (m : Nat) (e : Int) : FV :=
  if 7 < e + (m.log2 : Int) then .fin false (if neg then 0 else 1) 0
  else
    let x := fpPow2 (-(fpMul (toFp m e) fpLog2e))
    .fin false (((if neg then x else fpOne) * fpOne) / (fpOne + x)).toNat (-(FP : Int))

/-- The value of a function at a value that is not a NaN, and whether the true value lies strictly above it by less
than one unit in its last place (R180, R181). -/
def specialV (fn : SpecialFn) (v : FV) : FV × Bool :=
  match fn, v with
  | _, .nan => (.nan, false)
  | .exp2, .inf neg => (if neg then .fin false 0 0 else .inf false, false)
  | .log2, .inf neg | .sqrt, .inf neg => (if neg then .nan else .inf false, false)
  | .sinpi, .inf _ | .cospi, .inf _ => (.nan, false)
  | .rsq, .inf neg => (if neg then .nan else .fin false 0 0, false)
  | .rcp, .inf neg => (.fin neg 0 0, false)
  | .tanh, .inf neg => (.fin neg 1 0, false)
  | .sigm, .inf neg => (.fin false (if neg then 0 else 1) 0, false)
  | fn, .fin neg 0 _ => match fn with
    | .exp2 | .cospi => (.fin false 1 0, false)
    | .log2 => (.inf true, false)
    | .sinpi | .sqrt | .tanh => (.fin neg 0 0, false)
    | .rsq | .rcp => (.inf neg, false)
    | .sigm => (.fin false 1 (-1), false)
  | fn, .fin neg m e => match fn with
    | .exp2 => (exp2F neg m e, false)
    | .log2 => (if neg then .nan else log2F m e, false)
    | .sinpi => (sinpiF neg m e, false)
    | .cospi => (cospiF m e, false)
    | .rcp => (.fin neg ((1 <<< 128) / m) (-e - 128), (1 <<< 128) % m ≠ 0)
    | .rsq =>
      if neg then (.nan, false) else
      let m' := if e % 2 = 0 then m else 2 * m
      let s := isqrt ((1 <<< 256) / m')
      (.fin false s (-(e / 2) - 128), s * s * m' ≠ 1 <<< 256)
    | .sqrt =>
      if neg then (.nan, false) else
      let m' := (if e % 2 = 0 then m else 2 * m) <<< 128
      let s := isqrt m'
      (.fin false s (e / 2 - 64), s * s ≠ m')
    | .tanh => (tanhF neg m e, false)
    | .sigm => (sigmF neg m e, false)

/-- A special function on a pattern: nearest even, FTZ on input and result, RM ignored. EXP2 of FP32 −150 is the tie
that R180 does not expect, 2^−150: it goes to the even neighbour, +0, by the model's choice (log 13). -/
def FFmt.special (f : FFmt) (fn : SpecialFn) (ftz : Bool) (x : Nat) : Nat :=
  match specialV fn (f.inp ftz x) with
  | (.fin neg m e, sticky) => f.flush ftz (if m = 0 then (if neg then f.signW else 0) else f.roundMag .rne false neg m e sticky)
  | (v, _) => f.round .rne false v

end Sys2Proof.Machine
end

