-- ==== Sys2Proof/Machine/FloatOps.lean ====
section
/-! DEFINITION. Vector float instructions, special functions, conversions, BFPK and BFPU, and the Sepia evaluation ACT
(R58, R59, R177 to R183). -/

namespace Sys2Proof.Machine

/-- The element format of a float type (R177). -/
def ftyFmt : FTy → FFmt | .f32 => F32 | .f16x2 => F16 | .bf16x2 => BF16
/-- An operation on each element of three lane values. -/
def elems (ty : FTy) (g : FFmt → Nat → Nat → Nat → Nat) (x y z : Word) : Word :=
  match ty with
  | .f32 => BitVec.ofNat 32 (g F32 x.toNat y.toNat z.toNat)
  | ty =>
    let f := ftyFmt ty
    let lo := g f (x.toNat % 2 ^ 16) (y.toNat % 2 ^ 16) (z.toNat % 2 ^ 16)
    let hi := g f (x.toNat / 2 ^ 16) (y.toNat / 2 ^ 16) (z.toNat / 2 ^ 16)
    BitVec.ofNat 32 (lo + 2 ^ 16 * hi)

/-- A float instruction of one to three sources: UNI when every source is, else GEN (R162 rows 8 and 9). -/
def vfloat (srcs : Opd → List Src) (g : Warp → Word → Word → Word → Word) (o : Opd) : State → State :=
  vecGate o (((srcs o).zipIdx).map fun p => (p.2, p.1, false)) fun s =>
    let w := s.warp
    let f := fun l => g w (lane32 w s.width o.a l) (lane32 w s.width o.b l) (lane32 w s.width o.c l)
    s.done o (w.vput s.width o.u o.d (uniOrGen s.width ((srcs o).all fun x => (shapeOf w x).isUni) f) f)
def srcA (o : Opd) : List Src := [o.a]
def srcAB (o : Opd) : List Src := [o.a, o.b]
def srcABC (o : Opd) : List Src := [o.a, o.b, o.c]
/-- An operation of the mode: format, RM and FTZ, then the elements. -/
abbrev FOp := FFmt → RM → Bool → Nat → Nat → Nat → Nat
def vfl (srcs : Opd → List Src) (ty : FTy) (g : FOp) : Opd → State → State :=
  vfloat srcs fun w => elems ty fun f => g f w.rm w.ftz
/-- A float compare (R179): a mask of the active lanes. -/
def vfcmp (g : Bool → Nat → Nat → Bool) (o : Opd) : State → State :=
  vecGate o [(0, o.a, false), (1, o.b, false)] fun s =>
    let w := s.warp
    s.done o (writeS w o.d (cmpMask w s.width o.u fun l =>
      g w.ftz (lane32 w s.width o.a l).toNat (lane32 w s.width o.b l).toNat))

/-- One lane of CVT (R58): x2 formats by halves, from A and B where a pair comes from f32. -/
def cvtLane (dst src : Fmt) (rnd : Option RM) (sat : Bool) (w : Warp) (x y : Word) : Word :=
  let rm := rnd.getD w.rm
  let c := convert dst src rm sat w.ftz
  if dst.isPair then
    let (lo, hi) := if src.isPair then (x.toNat % 2 ^ 16, x.toNat / 2 ^ 16) else (x.toNat, y.toNat)
    BitVec.ofNat 32 (c lo + 2 ^ 16 * c hi)
  else BitVec.ofNat 32 (c x.toNat)
def vcvt (dst src : Fmt) (rnd : Option RM) (sat : Bool) (o : Opd) : State → State :=
  vfloat (if dst.isPair && src == .f32 then srcAB else srcA) (fun w x y _ => cvtLane dst src rnd sat w x y) o

/-- The mantissa width of a code (R47). -/
def mcodeM : MCode → Nat | .m2 => 2 | .m3 => 3 | .m4 => 4 | .m5 => 5 | .m6 => 6 | .m7 => 7 | .m8 => 8 | .m16 => 16
/-- The lane code of R59. -/
def laneCode (x : Nat) (q : Int) : Word :=
  (if q = 0 then 0 else BitVec.ofNat 32 (2 ^ 24)) ||| BitVec.ofNat 32 (2 ^ 16 * x) ||| BitVec.ofNat 32 (BitVec.ofInt 16 q).toNat
/-- The lane codes of one block of BFPK; `none` is an excluded element. -/
def bfpkBlock (m : Nat) (ftz : Bool) (xs : List (Option Word)) : List Word :=
  let (x, q) := quantise m (xs.map fun v => v.map fun v => prepare F32 (F32.inp ftz v.toNat))
  q.map fun v => laneCode x (v.getD 0)
/-- BFPK (R59): blocks of element positions formed from the lanes, a register pair at W = 16. With U = 1 at W = 16 the block
reads vA alone, and R59 does not say whether vA + 1 is a source for cause 0x04: that both must be UNI is the model's choice
(log 15). -/
def bfpkOp (m : Nat) (o : Opd) (s : State) : State :=
  s |> vecGate o [(0, o.a, s.width = 16)] fun s =>
    let w := s.warp
    let width := s.width
    let hiA : Src := match o.a with | .vec r p => .vec (r + 1) p | f => f
    let inp := fun (f : Src) (l : Nat) => if w.active l then some (lane32 w width f l) else none
    if o.u then
      let c := (bfpkBlock m w.ftz [some (lane32 w width o.a 0)]).getD 0 0
      let w' := w.vputGen width true o.d fun _ => c
      s.done o (if width = 16 then w'.vputGen width true (o.d + 1) fun _ => c else w')
    else if width = 16 then
      let b := bfpkBlock m w.ftz ((List.range 16).map (inp o.a) ++ (List.range 16).map (inp hiA))
      s.done o ((w.vputGen 16 false o.d fun l => b.getD l 0).vputGen 16 false (o.d + 1) fun l => b.getD (16 + l) 0)
    else
      let b := (List.range (width / 32)).flatMap fun k =>
        bfpkBlock m w.ftz ((List.range 32).map fun j => inp o.a (32 * k + j))
      s.done o (w.vputGen width false o.d fun l => b.getD l 0)
/-- One lane of BFPU (R59). -/
def bfpuLane (m : Nat) (w : Warp) (x : Word) : Word :=
  if x.getLsbD 24 then
    let q := sext m (x.toNat % 2 ^ 16)
    BitVec.ofNat 32 (F32.out w.rm w.ftz (.fin (q < 0) q.natAbs ((bits x.toNat 23 16 : Int) - 127)))
  else 0

/-- The result of a Sepia bank for one element value, exact (R183). -/
def sepiaEval (t : Sepia) (rm : RM) (x : FV) : FV :=
  if !t.loaded || x.isNan then .nan
  else
    let p := (x.add .rne (F32.dec t.x0.toNat).negate).mul (F32.dec t.hinv.toNat)
    if p.cmp (.fin false 0 0) = .lt then F32.dec t.low.toNat
    else if p.cmp (.fin false t.segs.length 0) ≠ .lt then F32.dec t.high.toNat
    else
      let i := match p with | .fin _ m e => roundUnits .rtz false m e 0 false | _ => 0
      let (slope, icpt) := t.segs.getD i (0, 0)
      ((F32.dec slope.toNat).mul x).add rm (F32.dec icpt.toNat)
def State.sepia (s : State) (bank : Bool) : Sepia := if bank then s.core.sepia1 else s.core.sepia0
/-- ACT: one that an ACTLD of its bank holds waits for it (R184). R183 widens a half exactly to FP32 and applies FTZ: that FTZ
flushes an f16 half that is subnormal in its own format, before it is widened, is the model's choice (log 13). -/
def actOp (bank : Bool) (ty : FTy) (o : Opd) : State → State :=
  vecGate o [(0, o.a, false)] fun s =>
    let t := s.sepia bank
    if s.actHeld bank then s.stallOn .act
    else vfloat srcA (fun w x _ _ => elems ty (fun f x _ _ => f.out w.rm w.ftz (sepiaEval t w.rm (f.inp w.ftz x))) x 0 0) o s

/-- FADD (R177). -/
def execFadd (f : Ops) (ty : FTy) (s : State) : Res := .next (vfl srcAB ty (fun f rm z x y _ => f.add rm z x y) (opd f) s)
/-- FADD, C form (R177, R16). -/
def execFaddC (f : COps) (s : State) : Res := .next (vfl srcAB .f32 (fun f rm z x y _ => f.add rm z x y) (copdVV f) s)
/-- FSUB (R177). -/
def execFsub (f : Ops) (ty : FTy) (s : State) : Res := .next (vfl srcAB ty (fun f rm z x y _ => f.sub rm z x y) (opd f) s)
/-- FSUB, C form (R177, R16). -/
def execFsubC (f : COps) (s : State) : Res := .next (vfl srcAB .f32 (fun f rm z x y _ => f.sub rm z x y) (copdVV f) s)
/-- FMUL (R177). -/
def execFmul (f : Ops) (ty : FTy) (s : State) : Res := .next (vfl srcAB ty (fun f rm z x y _ => f.mul rm z x y) (opd f) s)
/-- FMUL, C form (R177, R16). -/
def execFmulC (f : COps) (s : State) : Res := .next (vfl srcAB .f32 (fun f rm z x y _ => f.mul rm z x y) (copdVV f) s)
/-- FMA (R177). -/
def execFma (f : Ops) (ty : FTy) (s : State) : Res := .next (vfl srcABC ty FFmt.fma (opd f) s)
/-- FMS (R177). -/
def execFms (f : Ops) (ty : FTy) (s : State) : Res := .next (vfl srcABC ty FFmt.fms (opd f) s)
/-- FMIN (R178). -/
def execFmin (f : Ops) (ty : FTy) (s : State) : Res := .next (vfl srcAB ty (fun f _ z x y _ => f.minMax false z x y) (opd f) s)
/-- FMIN, C form (R178, R16). -/
def execFminC (f : COps) (s : State) : Res := .next (vfl srcAB .f32 (fun f _ z x y _ => f.minMax false z x y) (copdVV f) s)
/-- FMAX (R178). -/
def execFmax (f : Ops) (ty : FTy) (s : State) : Res := .next (vfl srcAB ty (fun f _ z x y _ => f.minMax true z x y) (opd f) s)
/-- FMAX, C form (R178, R16). -/
def execFmaxC (f : COps) (s : State) : Res := .next (vfl srcAB .f32 (fun f _ z x y _ => f.minMax true z x y) (copdVV f) s)
/-- FABS (R177). -/
def execFabs (f : Ops) (ty : FTy) (s : State) : Res := .next (vfl srcA ty (fun f _ z x _ _ => f.setSign z false x) (opd f) s)
/-- FABS, C form (R177, R16). -/
def execFabsC (f : COps) (s : State) : Res := .next (vfl srcA .f32 (fun f _ z x _ _ => f.setSign z false x) (copdV f) s)
/-- FNEG (R177). -/
def execFneg (f : Ops) (ty : FTy) (s : State) : Res := .next (vfl srcA ty (fun f _ z x _ _ => f.setSign z (!f.neg x) x) (opd f) s)
/-- FNEG, C form (R177, R16). -/
def execFnegC (f : COps) (s : State) : Res := .next (vfl srcA .f32 (fun f _ z x _ _ => f.setSign z (!f.neg x) x) (copdV f) s)
/-- FCOPYS (R177). -/
def execFcopys (f : Ops) (ty : FTy) (s : State) : Res := .next (vfl srcAB ty (fun f _ z x y _ => f.setSign z (f.neg y) x) (opd f) s)
/-- FCMPEQ (R179). -/
def execFcmpeq (f : Ops) (s : State) : Res := .next (vfcmp F32.eqB (opd f) s)
/-- FCMPEQ, C form (R179, R16). -/
def execFcmpeqC (f : COps) (s : State) : Res := .next (vfcmp F32.eqB (copdVV f) s)
/-- FCMPNE (R179). -/
def execFcmpne (f : Ops) (s : State) : Res := .next (vfcmp (fun z x y => !F32.eqB z x y) (opd f) s)
/-- FCMPNE, C form (R179, R16). -/
def execFcmpneC (f : COps) (s : State) : Res := .next (vfcmp (fun z x y => !F32.eqB z x y) (copdVV f) s)
/-- FCMPLT (R179). -/
def execFcmplt (f : Ops) (s : State) : Res := .next (vfcmp F32.ltB (opd f) s)
/-- FCMPLT, C form (R179, R16). -/
def execFcmpltC (f : COps) (s : State) : Res := .next (vfcmp F32.ltB (copdVV f) s)
/-- FCMPLE (R179). -/
def execFcmple (f : Ops) (s : State) : Res := .next (vfcmp F32.leB (opd f) s)
/-- FCMPLE, C form (R179, R16). -/
def execFcmpleC (f : COps) (s : State) : Res := .next (vfcmp F32.leB (copdVV f) s)
/-- FCMPUN (R179). -/
def execFcmpun (f : Ops) (s : State) : Res := .next (vfcmp (fun _ x y => F32.isNan x || F32.isNan y) (opd f) s)
/-- FRND (R177). -/
def execFrnd (f : Ops) (ty : FTy) (s : State) : Res := .next (vfl srcA ty (fun f rm z x _ _ => f.integral rm z x) (opd f) s)
/-- FRND, C form (R177, R16). -/
def execFrndC (f : COps) (s : State) : Res := .next (vfl srcA .f32 (fun f rm z x _ _ => f.integral rm z x) (copdV f) s)
/-- FFLOOR (R177). -/
def execFfloor (f : Ops) (ty : FTy) (s : State) : Res := .next (vfl srcA ty (fun f _ z x _ _ => f.integral .rdn z x) (opd f) s)
/-- FFLOOR, C form (R177, R16). -/
def execFfloorC (f : COps) (s : State) : Res := .next (vfl srcA .f32 (fun f _ z x _ _ => f.integral .rdn z x) (copdV f) s)
/-- FCEIL (R177). -/
def execFceil (f : Ops) (ty : FTy) (s : State) : Res := .next (vfl srcA ty (fun f _ z x _ _ => f.integral .rup z x) (opd f) s)
/-- FCEIL, C form (R177, R16). -/
def execFceilC (f : COps) (s : State) : Res := .next (vfl srcA .f32 (fun f _ z x _ _ => f.integral .rup z x) (copdV f) s)
/-- FTRUNC (R177). -/
def execFtrunc (f : Ops) (ty : FTy) (s : State) : Res := .next (vfl srcA ty (fun f _ z x _ _ => f.integral .rtz z x) (opd f) s)
/-- FTRUNC, C form (R177, R16). -/
def execFtruncC (f : COps) (s : State) : Res := .next (vfl srcA .f32 (fun f _ z x _ _ => f.integral .rtz z x) (copdV f) s)
/-- FCLASS (R179). -/
def execFclass (f : Ops) (s : State) : Res := .next (vfloat srcA (fun _ x _ _ => BitVec.ofNat 32 (fclass x.toNat)) (opd f) s)
/-- FCLASS, C form (R179, R16). -/
def execFclassC (f : COps) (s : State) : Res := .next (vfloat srcA (fun _ x _ _ => BitVec.ofNat 32 (fclass x.toNat)) (copdV f) s)
/-- CVT (R58). -/
def execCvt (f : Ops) (dst src : Fmt) (rnd : Option RM) (sat : Bool) (s : State) : Res := .next (vcvt dst src rnd sat (opd f) s)
/-- BFPK (R59). -/
def execBfpk (f : Ops) (m : MCode) (s : State) : Res := .next (bfpkOp (mcodeM m) (opd f) s)
/-- BFPU (R59). -/
def execBfpu (f : Ops) (m : MCode) (s : State) : Res := .next (vfloat srcA (fun w x _ _ => bfpuLane (mcodeM m) w x) (opd f) s)
/-- EXP2 (R180). -/
def execExp2 (f : Ops) (ty : FTy) (s : State) : Res := .next (vfl srcA ty (fun f _ z x _ _ => f.special .exp2 z x) (opd f) s)
/-- EXP2, C form (R180, R16). -/
def execExp2C (f : COps) (s : State) : Res := .next (vfl srcA .f32 (fun f _ z x _ _ => f.special .exp2 z x) (copdV f) s)
/-- LOG2 (R180). -/
def execLog2 (f : Ops) (ty : FTy) (s : State) : Res := .next (vfl srcA ty (fun f _ z x _ _ => f.special .log2 z x) (opd f) s)
/-- LOG2, C form (R180, R16). -/
def execLog2C (f : COps) (s : State) : Res := .next (vfl srcA .f32 (fun f _ z x _ _ => f.special .log2 z x) (copdV f) s)
/-- SINPI (R180). -/
def execSinpi (f : Ops) (ty : FTy) (s : State) : Res := .next (vfl srcA ty (fun f _ z x _ _ => f.special .sinpi z x) (opd f) s)
/-- SINPI, C form (R180, R16). -/
def execSinpiC (f : COps) (s : State) : Res := .next (vfl srcA .f32 (fun f _ z x _ _ => f.special .sinpi z x) (copdV f) s)
/-- COSPI (R180). -/
def execCospi (f : Ops) (ty : FTy) (s : State) : Res := .next (vfl srcA ty (fun f _ z x _ _ => f.special .cospi z x) (opd f) s)
/-- COSPI, C form (R180, R16). -/
def execCospiC (f : COps) (s : State) : Res := .next (vfl srcA .f32 (fun f _ z x _ _ => f.special .cospi z x) (copdV f) s)
/-- RSQ (R180). -/
def execRsq (f : Ops) (ty : FTy) (s : State) : Res := .next (vfl srcA ty (fun f _ z x _ _ => f.special .rsq z x) (opd f) s)
/-- RCP (R180). -/
def execRcp (f : Ops) (ty : FTy) (s : State) : Res := .next (vfl srcA ty (fun f _ z x _ _ => f.special .rcp z x) (opd f) s)
/-- SQRT (R180). -/
def execSqrt (f : Ops) (ty : FTy) (s : State) : Res := .next (vfl srcA ty (fun f _ z x _ _ => f.special .sqrt z x) (opd f) s)
/-- TANH (R180). -/
def execTanh (f : Ops) (ty : FTy) (s : State) : Res := .next (vfl srcA ty (fun f _ z x _ _ => f.special .tanh z x) (opd f) s)
/-- SIGM (R180). -/
def execSigm (f : Ops) (ty : FTy) (s : State) : Res := .next (vfl srcA ty (fun f _ z x _ _ => f.special .sigm z x) (opd f) s)
/-- ACT (R183). -/
def execAct (f : Ops) (bank : Bool) (ty : FTy) (s : State) : Res := .next (actOp bank ty (opd f) s)

end Sys2Proof.Machine
end

