-- ==== Sys2Proof/Machine/Cross.lean ====
section
/-! DEFINITION. Cross-lane and sort instructions (R186 to R190). All sources are read before any lane is written. -/

namespace Sys2Proof.Machine

/-- VPERM (R186). -/
def vpermOp (o : Opd) : State → State :=
  vecGate o [] fun s =>
    let w := s.warp
    s.done o (w.vputGen s.width false o.d fun l =>
      lane32 w s.width o.a ((lane32 w s.width o.b l).toNat % s.width))

/-- The operation and identity of a scan (R187). -/
def scanFn (op : ScanOp) (w : Warp) (a x : Word) : Word :=
  match op with
  | .add => a + x
  | .max => maxS a x
  | .min => minS a x
  | .fadd => BitVec.ofNat 32 (F32.add w.rm w.ftz a.toNat x.toNat)
  | .fmax => BitVec.ofNat 32 (F32.minMax true w.ftz a.toNat x.toNat)
  | .fmin => BitVec.ofNat 32 (F32.minMax false w.ftz a.toNat x.toNat)
def scanId : ScanOp → Word
  | .add => 0 | .max => 0x80000000 | .min => 0x7FFFFFFF | .fadd => 0 | .fmax => 0xFF800000 | .fmin => 0x7F800000
/-- The active lanes' results with their lanes; `acc` is none before the first. -/
def scanFrom (g : Word → Word → Word) (ident : Word) (excl : Bool) : Option Word → List (Nat × Word) → List (Nat × Word)
  | _, [] => []
  | acc, (l, x) :: r =>
    let acc' := match acc with | none => x | some a => g a x
    (l, if excl then acc.getD ident else acc') :: scanFrom g ident excl (some acc') r
def vscanOp (op : ScanOp) (excl : Bool) (o : Opd) : State → State :=
  vecGate o [] fun s =>
    let w := s.warp
    let r := scanFrom (scanFn op w) (scanId op) excl none ((w.lanes s.width).map fun l => (l, lane32 w s.width o.a l))
    s.done o (w.vputGen s.width false o.d fun l => Tab.get 0 l r)

/-- The order of keys as an integer (R188): all NaNs are equal and greatest, −0 = +0. -/
def keyRank (k : KeyTy) (x : Word) : Int :=
  match k with
  | .i32 => x.toInt
  | .u32 => x.toNat
  | .f32 => if F32.isNan x.toNat then 2 ^ 32 else signed (F32.neg x.toNat) (F32.mag x.toNat)
/-- A sort item: key's rank, key, value. -/
abbrev Item := Int × Word × Word
/-- `x` placed before the first item that comes strictly after it. -/
def insertItem (desc : Bool) (x : Item) : List Item → List Item
  | [] => [x]
  | y :: r => if (if desc then y.1 < x.1 else x.1 < y.1) then x :: y :: r else y :: insertItem desc x r
/-- The stable sort of R189. -/
def sortItems (desc : Bool) (l : List Item) : List Item := l.foldl (fun acc x => insertItem desc x acc) []
/-- The sorted items, each with the active lane that receives it. -/
def sortedLanes (key : KeyTy) (desc : Bool) (o : Opd) (s : State) : List (Nat × Item) :=
  let w := s.warp
  let ls := w.lanes s.width
  ls.zip (sortItems desc (ls.map fun l =>
    let k := lane32 w s.width o.a l
    (keyRank key k, k, lane32 w s.width o.b l)))
def vsortOp (key : KeyTy) (desc kv : Bool) (o : Opd) : State → State :=
  vecGate o [] fun s =>
    let r := sortedLanes key desc o s
    let at_ := fun (l : Nat) => Tab.get (0, 0, 0) l r
    let w := s.warp.vputGen s.width false o.d fun l => (at_ l).2.1
    s.done o (if kv then w.vputGen s.width false (o.d + 1) fun l => (at_ l).2.2 else w)
/-- VARGMAX (R190): the lowest active lane that holds the greatest key. -/
def vargmaxOp (key : KeyTy) (o : Opd) : State → State :=
  vecGate o [] fun s =>
    let w := s.warp
    let best := (w.lanes s.width).foldl (fun (b : Option (Nat × Int)) l =>
      let k := keyRank key (lane32 w s.width o.a l)
      match b with
      | none => some (l, k)
      | some (_, kb) => if kb < k then some (l, k) else b) none
    s.done o (writeS w o.d (BitVec.ofNat 64 ((best.map Prod.fst).getD 0)))

/-- VPERM (R186). -/
def execVperm (f : Ops) (s : State) : Res := .next (vpermOp (opd f) s)
/-- VSCAN (R187). -/
def execVscan (f : Ops) (op : ScanOp) (excl : Bool) (s : State) : Res := .next (vscanOp op excl (opd f) s)
/-- VSORT (R189). -/
def execVsort (f : Ops) (key : KeyTy) (desc : Bool) (s : State) : Res := .next (vsortOp key desc false (opd f) s)
/-- VSORTKV (R189). -/
def execVsortkv (f : Ops) (key : KeyTy) (desc : Bool) (s : State) : Res := .next (vsortOp key desc true (opd f) s)
/-- VARGMAX (R190). -/
def execVargmax (f : Ops) (key : KeyTy) (s : State) : Res := .next (vargmaxOp key (opd f) s)

end Sys2Proof.Machine
end

