-- ==== Sys2Proof/Machine/Memory.lean ====
section
/-! DEFINITION. Global memory, atomics and fences (R227 to R237): address formation, the per-lane checks of R38, loads,
stores, atomics, reductions in flight, and poison. -/

namespace Sys2Proof.Machine

/-- GlobalAddr(l) (R230). -/
def globalAddr (w : Warp) (width : Nat) (g : GAddr) (o : Opd) (hasOff : Bool) (l : Nat) : DWord :=
  let idx := match o.b with
    | .vec .. =>
      let x := lane32 w width o.b l
      (if g.ixs then x.signExtend 64 else x.setWidth 64) <<< g.scale.toNat
    | .sca r => readS w r <<< g.scale.toNat
    | f => lane64 w width f l
  lane64 w width o.a l + idx + (if hasOff && !absent o.c then lane64 w width o.c l else 0)

/-- The outcome of the checks of every lane (R38): the lanes with their keys, a fault, or a wait for a migration. -/
inductive LaneCheck where
  | ok (l : List (Nat × Nat)) | fault (cause : Nat) (lanes addr : DWord) | wait
deriving DecidableEq, Repr
/-- Every lane checked: the lowest faulting lane's cause and address, the lanes whose first failing check gives that
cause; under U the lanes are exec (log 15). -/
def checkLanes (s : State) (u : Bool) (lanes : List Nat) (addr : Nat → DWord) (align : Nat) (k : Acc) (ioOk : Bool) :
    LaneCheck :=
  let r : List (Nat × Xlate) := lanes.map fun l => (l, match s.xlateW (addr l) align k with
    | .ok key lf => if lf.io && !ioOk then Xlate.bad 0x09 else .ok key lf
    | x => x)
  if r.any (fun p => p.2 = .wait) then .wait
  else match r.find? fun p => match p.2 with | .bad _ => true | _ => false with
    | some (l, .bad c) =>
      .fault c (if u then s.warp.exec else maskOf 64 fun j => r.any fun p => p.1 = j && p.2 = .bad c) (addr l)
    | _ => .ok (r.filterMap fun p => match p.2 with | .ok key _ => some (p.1, key) | _ => none)

/-- Bytes of an access. -/
def widthBytes : Width → Nat | .w32 | .s32 => 4 | .w64 => 8 | .u8 | .s8 => 1 | .u16 | .s16 => 2
/-- A loaded value extended to `n` bits (R227). -/
def extend (n : Nat) (w : Width) (v : Nat) : BitVec n :=
  match w with
  | .s8 => (BitVec.ofNat 8 v).signExtend n
  | .s16 => (BitVec.ofNat 16 v).signExtend n
  | .s32 => (BitVec.ofNat 32 v).signExtend n
  | _ => BitVec.ofNat n v

/-- Stores of one instruction, in order; a line all of whose bytes they write is no longer poisoned (R232). -/
def State.storeAll (l : List (Nat × List Byte)) (s : State) : State :=
  let s' := l.foldl (fun s p => s.writeMem p.1 p.2) s
  if s.linePoison.isEmpty then s'
  else { s' with linePoison := s.linePoison.filter (fun ln => !(List.range 64).all fun i =>
      l.any fun p => p.1 ≤ 64 * ln + i && 64 * ln + i < p.1 + p.2.length) }

/-- A release, where the order is one, has performed the warp's reductions first. -/
def State.order (o : Order) (s : State) : State :=
  match o with | .rel | .ar => s.flushReds s.cur | _ => s

/-- A load's checks and its lanes' values; `k` gets them (R231, R232). -/
def loadLanes (u : Bool) (lanes : List Nat) (addr : Nat → DWord) (w : Width) (ioOk : Bool) (so : Sync)
    (k : List (Nat × Nat) → State → State) (s : State) : State :=
  match checkLanes s u lanes addr (widthBytes w) .read ioOk with
  | .wait => s.stallOn .migrate
  | .fault c m a => s.raise (BitVec.ofNat 8 c) m a
  | .ok l =>
    match l.find? fun p => s.linePoisoned p.2 with
    | some (b, _) =>
      s.raise 0x38 (if u then s.warp.exec else maskOf 64 fun j => l.any fun p => p.1 = j && s.linePoisoned p.2) (addr b)
    | none =>
      let s := (s.order so.order).flushOver s.cur (l.map fun p => (p.2, widthBytes w))
      k (l.map fun p => (p.1, leNat (s.readMem p.2 (widthBytes w)))) s
/-- A load's results into a vector register or pair. -/
def Warp.loadTo (w : Warp) (width : Nat) (u : Bool) (d : Reg) (wd : Width) (l : List (Nat × Nat)) : Warp :=
  if wd = .w64 then w.vput64 width u d fun i => BitVec.ofNat 64 (Tab.get 0 i l)
  else w.vputGen width u d fun i => extend 32 wd (Tab.get 0 i l)

/-- LD and LDF (R231, R233): `ioOk` says whether I/O pages may be read. -/
def loadOp (g : GAddr) (wd : Width) (so : Sync) (ioOk : Bool) (o : Opd) : State → State :=
  vecGate o [(0, o.a, true), (1, o.b, false)] fun s =>
    loadLanes o.u (bodyLanes s.warp s.width o.u) (globalAddr s.warp s.width g o true) wd ioOk so (fun l s =>
      s.done o (s.warp.loadTo s.width o.u o.d wd l)) s
/-- The translations that the executing LDF has obtained, which stay with it while its data is on its way (R43, R233). -/
def ldfUnits (g : GAddr) (o : Opd) (s : State) : List (Nat × Leaf) :=
  (bodyLanes s.warp s.width o.u).filterMap fun l =>
    let a := globalAddr s.warp s.width g o true l
    match s.lookupW a with
    | .leaf x => some (a.toNat / 2 ^ 19, x)
    | _ => none
/-- The executing warp blocks at its LDF with these translations, those that it holds already where it had blocked before. -/
def State.ldfBlock (g : GAddr) (o : Opd) (s : State) : State :=
  let h := s.warp.held.getD ⟨s.nextCmd, ldfUnits g o s⟩
  let t := s.block .ldf o.len
  if t.warp.run ≠ .ldf then t
  else { t.setWarp { t.warp with held := some h } with nextCmd := Nat.max s.nextCmd (h.id + 1) }
/-- LDU: lane 0 alone, for every active lane; its sources must count as UNI (R231). -/
def loadUni (g : GAddr) (wd : Width) (so : Sync) (o : Opd) (s : State) : State :=
  vecGate { o with u := true } [(0, o.a, true), (1, o.b, false)] (fun s =>
    loadLanes true [0] (globalAddr s.warp s.width g o true) wd true so (fun l s =>
      s.done o (s.warp.loadTo s.width true o.d wd l)) s) s
/-- LDS: once for the warp, whatever exec holds. -/
def loadScalar (g : GAddr) (wd : Width) (so : Sync) (o : Opd) (s : State) : State :=
  loadLanes true [0] (globalAddr s.warp s.width g o true) wd true so (fun l s =>
    s.done o (writeS s.warp o.d (extend 64 wd (Tab.get 0 0 l)))) s

/-- A store's checks, then its bytes lane by lane, so that the highest lane wins (R231). -/
def storeLanes (u : Bool) (lanes : List Nat) (addr : Nat → DWord) (data : Nat → DWord) (wd : Width) (so : Sync) (o : Opd)
    (s : State) : State :=
  match checkLanes s u lanes addr (widthBytes wd) .write true with
  | .wait => s.stallOn .migrate
  | .fault c m a => s.raise (BitVec.ofNat 8 c) m a
  | .ok l =>
    let s := (s.order so.order).flushOver s.cur (l.map fun p => (p.2, widthBytes wd))
    (s.storeAll (l.map fun p => (p.2, leBytes (widthBytes wd) (data p.1).toNat))).retire o
def storeOp (g : GAddr) (wd : Width) (so : Sync) (o : Opd) : State → State :=
  vecGate o [(0, o.a, true), (1, o.b, false), (3, .vec o.d .ident, wd = .w64)] fun s =>
    let w := s.warp
    let data := fun l => if wd = .w64 then lane64 w s.width (.vec o.d .ident) l
      else (lane32 w s.width (.vec o.d .ident) l).setWidth 64
    storeLanes o.u (bodyLanes w s.width o.u) (globalAddr w s.width g o true) data wd so o s
def storeScalar (g : GAddr) (wd : Width) (so : Sync) (o : Opd) (s : State) : State :=
  storeLanes true [0] (globalAddr s.warp s.width g o true) (fun _ => readS s.warp o.d) wd so o s

/-- The data of a lane of ATOM and RED. -/
def atomData (w : Warp) (width : Nat) (w64 : Bool) (f : Src) (l : Nat) : DWord :=
  if w64 then lane64 w width f l else (lane32 w width f l).setWidth 64
/-- ATOM (R235, R236): ascending lanes, each returning the old value; a poisoned line traps before any lane's word
changes. -/
def atomOp (g : GAddr) (op : AOp) (w64 : Bool) (so : Sync) (o : Opd) : State → State :=
  vecGate o ([(0, o.a, true), (1, o.b, false), (2, o.c, w64)] ++ if op = .cas then [(3, .vec o.d .ident, w64)] else [])
  fun s =>
    let w := s.warp
    let width := s.width
    match checkLanes s o.u (bodyLanes w width o.u) (globalAddr w width g o false) (if w64 then 8 else 4) .rw false with
    | .wait => s.stallOn .migrate
    | .fault c m a => s.raise (BitVec.ofNat 8 c) m a
    | .ok l =>
      match l.find? fun p => s.linePoisoned p.2 with
      | some (b, _) =>
        s.raise 0x38 (if o.u then w.exec else maskOf 64 fun j => l.any fun p => p.1 = j && s.linePoisoned p.2)
          (globalAddr w width g o false b)
      | none =>
        let s := (s.order so.order).flushOver s.cur (l.map fun p => (p.2, if w64 then 8 else 4))
        let (olds, s) := l.foldl (fun (acc : List (Nat × Nat) × State) p =>
          let (old, s) := acc.2.atomicAt p.2 op w64 (atomData w width w64 o.c p.1)
            (atomData w width w64 (.vec o.d .ident) p.1)
          (acc.1 ++ [(p.1, old.toNat)], s)) ([], s)
        s.done o (s.warp.loadTo width o.u o.d (if w64 then .w64 else .w32) olds)
/-- The lanes' data gathered by word, in no particular order of words. -/
def byWord (l : List (Nat × DWord)) : List (Nat × List DWord) :=
  ((l.map Prod.fst).dedup).map fun a => (a, (l.filter (·.1 = a)).map Prod.snd)
/-- RED: its reductions leave the core (R236). -/
def redOp (g : GAddr) (op : AOp) (w64 : Bool) (so : Sync) (o : Opd) : State → State :=
  vecGate o [(0, o.a, true), (1, o.b, false), (2, o.c, w64)] fun s =>
    let w := s.warp
    let width := s.width
    match checkLanes s o.u (bodyLanes w width o.u) (globalAddr w width g o false) (if w64 then 8 else 4) .rw false with
    | .wait => s.stallOn .migrate
    | .fault c m a => s.raise (BitVec.ofNat 8 c) m a
    | .ok l =>
      let s := s.order so.order
      let new := (byWord (l.map fun p => (p.2, atomData w width w64 o.c p.1))).map fun p =>
        (⟨wgOf s.cur, warpNo s.cur, p.1, op, w64, p.2⟩ : Red)
      { s with reds := s.reds ++ new }.retire o

/-- RED_PERFORM (R236): the reduction at place `i`, unless an earlier one of the same warp names its bytes (R215). -/
def execRedPerform (i : Nat) (s : State) : Res :=
  .next (match s.reds[i]? with
  | none => s
  | some r =>
    if (s.reds.take i).any fun q => q.wg = r.wg && q.warp = r.warp && q.addr < r.addr + redBytes r
      && r.addr < q.addr + redBytes q then s
    else { s with reds := s.reds.eraseIdx i }.applyRed r)
/-- FENCE (R237): whatever exec holds; an acquire orders nothing that has not performed already (log 5). -/
def fenceOp (kind : FenceKind) (o : Opd) (s : State) : State :=
  (match kind with | .acq => s | _ => s.flushReds s.cur).retire o

/-- LD (R231). -/
def execLd (f : Ops) (g : GAddr) (w : Width) (o : Sync) (s : State) : Res := .next (loadOp g w o true (opd f) s)
/-- ST (R231). -/
def execSt (f : Ops) (g : GAddr) (w : Width) (o : Sync) (s : State) : Res := .next (storeOp g w o (opd f) s)
/-- LDS (R231). -/
def execLds (f : Ops) (g : GAddr) (w : Width) (o : Sync) (s : State) : Res := .next (loadScalar g w o (opd f) s)
/-- STS (R231). -/
def execSts (f : Ops) (g : GAddr) (w : Width) (o : Sync) (s : State) : Res := .next (storeScalar g w o (opd f) s)
/-- LDU (R231). -/
def execLdu (f : Ops) (g : GAddr) (w : Width) (o : Sync) (s : State) : Res := .next (loadUni g w o (opd f) s)
/-- LDF (R233): it ends its stint whatever S holds, and with exec empty too (R246). -/
def execLdf (f : Ops) (g : GAddr) (w : Width) (o : Sync) (s : State) : Res :=
  .next (loadOp g w o false { opd f with s := true } s)
/-- PREF (R234). -/
def execPref (f : Ops) (_ : GAddr) (s : State) : Res := .next ((fun x s => s.retire x) (opd f) s)
/-- ATOM (R235). -/
def execAtom (f : Ops) (g : GAddr) (op : AOp) (w64 : Bool) (o : Sync) (s : State) : Res := .next (atomOp g op w64 o (opd f) s)
/-- RED (R236). -/
def execRed (f : Ops) (g : GAddr) (op : AOp) (w64 : Bool) (o : Sync) (s : State) : Res := .next (redOp g op w64 o (opd f) s)
/-- FENCE (R237). -/
def execFence (f : Ops) (kind : FenceKind) (_ : Scope) (s : State) : Res := .next (fenceOp kind (opd f) s)

end Sys2Proof.Machine
end

