-- ==== Sys2Proof/Machine/Local.lean ====
section
/-! DEFINITION. Local memory, bank commands, BULK and BCPY, tags, and ACTLD (R97 to R104, R106, R108 to R118, R184). Local
offsets of a workgroup lie at its allocation's physical base. -/

namespace Sys2Proof.Machine

/-! Local bytes of a workgroup. -/

/-- Bytes at a local offset, every word read verified first (R96). -/
def State.locRead (g : Wg) (off n : Nat) (s : State) : List Byte × State :=
  let s := s.verify g.core (g.base + off) n
  (s.padRead g.core (g.base + off) n, s)
def State.locWrite (g : Wg) (off : Nat) (b : List Byte) (s : State) : State := s.padWrite g.core (g.base + off) b
/-- A poisoned word lies in the span (R97). -/
def State.locPoisoned (s : State) (g : Wg) (off n : Nat) : Bool := (s.coreAt g.core).poisoned (g.base + off) n
/-- A 32-bit word. -/
def State.loc32 (s : State) (g : Wg) (off : Nat) : Nat := leNat (s.padRead g.core (g.base + off) 4)

/-! Addresses and checks. -/

/-- A value as R108 takes it: a scalar whole, every other class 32 bits zero-extended. -/
def locVal (w : Warp) (width : Nat) (f : Src) (l : Nat) : DWord :=
  match f with
  | .sca r => readS w r
  | f => (lane32 w width f l).setWidth 64
/-- LocalAddr(l) (R108). -/
def localAddr (w : Warp) (width : Nat) (o : Opd) (hasOff : Bool) (l : Nat) : DWord :=
  locVal w width o.a l + (if hasOff && !absent o.c then lane64 w width o.c l else 0)
/-- A lane's checks: misaligned, then at or beyond the allocation (R108). -/
def localCause (g : Wg) (a : DWord) (align : Nat) : Option Nat :=
  if a.toNat % align ≠ 0 then some 0x0A else if g.alloc ≤ a.toNat then some 0x0C else none
/-- The lowest faulting lane's cause and address, with the lanes whose first failing check gives that cause; under U the
lanes are exec (log 15). -/
def checkLocal (s : State) (u : Bool) (lanes : List Nat) (addr : Nat → DWord) (align : Nat) :
    Option (Nat × DWord × DWord) :=
  (lanes.findSome? fun l => (localCause s.wg (addr l) align).map fun c => (l, c)).map fun (l, c) =>
    (c, if u then s.warp.exec else maskOf 64 fun j => lanes.contains j && localCause s.wg (addr j) align == some c, addr l)
/-- The same for poison (R97): cause 0x38. -/
def checkPoison (s : State) (u : Bool) (lanes : List Nat) (addr : Nat → DWord) (n : Nat) : Option (DWord × DWord) :=
  let bad := fun l => s.locPoisoned s.wg (addr l).toNat n
  (lanes.find? bad).map fun l => (if u then s.warp.exec else maskOf 64 fun j => lanes.contains j && bad j, addr l)
/-- The words that lanes are about to read, verified in lane order. -/
def verifyLanes (lanes : List Nat) (addr : Nat → DWord) (n : Nat) (s : State) : State :=
  lanes.foldl (fun s l => s.verify s.wg.core (s.wg.base + (addr l).toNat) n) s
/-- Checks, then `k`. -/
def localGate (u : Bool) (lanes : List Nat) (addr : Nat → DWord) (align : Nat) (k : State → State) (s : State) : State :=
  match checkLocal s u lanes addr align with
  | some (c, m, a) => s.raise (BitVec.ofNat 8 c) m a
  | none => k s
/-- Words verified and, if a lane reads poison, cause 0x38; else `k`. -/
def poisonGate (u : Bool) (lanes : List Nat) (addr : Nat → DWord) (n : Nat) (k : State → State) (s : State) : State :=
  let s := verifyLanes lanes addr n s
  match checkPoison s u lanes addr n with
  | some (m, a) => s.raise 0x38 m a
  | none => k s

/-! LDL, STL, ATOML. -/

/-- LDL (R110). -/
def ldlOp (wd : Width) (o : Opd) : State → State :=
  vecGate o [(0, o.a, false)] fun s =>
    let w := s.warp
    let lanes := bodyLanes w s.width o.u
    let addr := localAddr w s.width o true
    localGate o.u lanes addr (widthBytes wd) (poisonGate o.u lanes addr (widthBytes wd) fun s =>
      let vals := lanes.map fun l => (l, leNat (s.padRead s.wg.core (s.wg.base + (addr l).toNat) (widthBytes wd)))
      s.done o (s.warp.loadTo s.width o.u o.d wd vals)) s
/-- One instruction's stores in lane order; a word that they replace wholly is no longer poisoned (R97, R110). -/
def State.padStoreAll (core : Nat) (l : List (Nat × List Byte)) (s : State) : State :=
  let whole := fun wd => (List.range 16).all fun i => l.any fun p => p.1 ≤ 16 * wd + i && 16 * wd + i < p.1 + p.2.length
  let s := l.foldl (fun s p => s.padWrite core p.1 p.2) s
  let c := s.coreAt core
  s.setCoreAt core { c with poison := c.poison.filter (fun wd => !whole wd)
                            latent := c.latent.filter (fun e => !whole e.1) }
/-- STL (R110): the highest-numbered lane wins. -/
def stlOp (wd : Width) (o : Opd) : State → State :=
  vecGate o [(0, o.a, false), (1, o.b, wd = .w64)] fun s =>
    let w := s.warp
    let lanes := bodyLanes w s.width o.u
    let addr := localAddr w s.width o true
    let data := fun l => if wd = .w64 then lane64 w s.width o.b l else (lane32 w s.width o.b l).setWidth 64
    localGate o.u lanes addr (widthBytes wd) (fun s =>
      (s.padStoreAll s.wg.core (lanes.map fun l =>
        (s.wg.base + (addr l).toNat, leBytes (widthBytes wd) (data l).toNat))).retire o) s
/-- A read-modify-write of the word at a local offset (R99): its old value. -/
def State.padModify (off : Nat) (new : Nat → Nat) (s : State) : Nat × State :=
  let old := s.loc32 s.wg off
  (old, s.locWrite s.wg off (leBytes 4 (new old)))
/-- Lanes in ascending order, each modifying its word (R111, R113); a poisoned word is left as it is. -/
def modifyLanes (lanes : List Nat) (addr : Nat → DWord) (new : Nat → Nat → Nat) (s : State) : List (Nat × Nat) × State :=
  lanes.foldl (fun acc l =>
    if acc.2.locPoisoned acc.2.wg (addr l).toNat 4 then acc
    else
      let r := acc.2.padModify (addr l).toNat (new l)
      (acc.1 ++ [(l, r.1)], r.2)) ([], s)
/-- Old values written to D. -/
def putOlds (o : Opd) (olds : List (Nat × Nat)) (s : State) : State :=
  s.done o (s.warp.vputGen s.width o.u o.d fun i => BitVec.ofNat 32 (Tab.get 0 i olds))
/-- ATOML (R111). -/
def atomlOp (op : AOp) (ord : Order) (o : Opd) : State → State :=
  vecGate o ([(0, o.a, false), (1, o.b, false)] ++ if op = .cas then [(3, .vec o.d .ident, false)] else []) fun s =>
    let w := s.warp
    let lanes := bodyLanes w s.width o.u
    let addr := localAddr w s.width o true
    let new := fun l old => (aopNew op (BitVec.ofNat 32 old) (lane32 w s.width o.b l)
      (lane32 w s.width (.vec o.d .ident) l)).toNat
    localGate o.u lanes addr 4 (poisonGate o.u lanes addr 4 fun s =>
      let (olds, s) := modifyLanes lanes addr new (s.order ord)
      putOlds o olds s) s

/-! Ochre operations (R100, R101). -/

/-- A float operation on a word, or on its BF16 halves; never fmode. -/
def ochreF (bf : Bool) (g : FFmt → Nat → Nat → Nat → Nat) (w a b : Word) : Word :=
  elems (if bf then .bf16x2 else .f32) g w a b
def ochreAdd (w a _ : Word) : Word := w + a
def ochreMax (w a _ : Word) : Word := maxS w a
def ochreMin (w a _ : Word) : Word := minS w a
def ochreFadd (bf : Bool) : Word → Word → Word → Word := ochreF bf fun f w a _ => f.add .rne false w a
def ochreFmax (bf : Bool) : Word → Word → Word → Word := ochreF bf fun f w a _ => f.minMax true false w a
def ochreFmin (bf : Bool) : Word → Word → Word → Word := ochreF bf fun f w a _ => f.minMax false false w a
def ochreFmul (bf : Bool) : Word → Word → Word → Word := ochreF bf fun f w a _ => f.mul .rne false w a
def ochreFma (bf : Bool) : Word → Word → Word → Word := ochreF bf fun f w a b => f.fma .rne false w a b
def ochreCas (w a b : Word) : Word := if w = a then b else w
def ochreXchg (_ a _ : Word) : Word := a

/-- The greatest of values, by exact comparison; equal values leave the first. -/
def greatest (m : Nat) (xs : List Nat) : Nat := xs.foldl (fun mn x => if F32.ltB false mn x then x else mn) m
/-- One term of XMS: E(RNE(x − mn)). -/
def xmsTerm (mn x : Nat) : Nat := F32.special .exp2 false (F32.sub .rne false x mn)
/-- XMS (R101) on FP32 words. -/
def xms (xs : List Nat) (m s : Nat) : Nat × Nat :=
  let nan := F32.isNan m || F32.isNan s || xs.any F32.isNan
  if nan || xs.any (· = 0x7F800000) || m = 0x7F800000 then (if nan then 0x7FC00000 else 0x7F800000, 0x7FC00000)
  else
    let mn := greatest m xs
    if mn = 0xFF800000 then (m, s)
    else (mn, xs.foldl (fun acc x => F32.add .rne false acc (xmsTerm mn x)) (F32.mul .rne false s (xmsTerm mn m)))
/-- XMS on the pair at a local offset, as one step; skipped where the pair's word is poisoned (R113, R115). -/
def State.xmsAt (g : Wg) (off : Nat) (xs : List Nat) (s : State) : State :=
  let s := s.verify g.core (g.base + off) 8
  if s.locPoisoned g off 8 then s
  else
    let r := xms xs (s.loc32 g off) (s.loc32 g (off + 4))
    s.locWrite g off (leBytes 4 r.1 ++ leBytes 4 r.2)

/-! Per-lane and row bank commands (R113). -/

/-- Lane `l`'s word. -/
def bnkAddr (w : Warp) (width : Nat) (row hasOff : Bool) (o : Opd) (l : Nat) : DWord :=
  if row then locVal w width o.a 0 + BitVec.ofNat 64 (4 * l) else localAddr w width o hasOff l
/-- A command whose operation is `g w a b`; `two` says that C holds b, `ret` that the old value is returned and poison
traps. -/
def bnkOp (row two ret : Bool) (g : Word → Word → Word → Word) (o : Opd) : State → State :=
  vecGate o ([(0, o.a, false), (1, o.b, false)] ++ if two then [(2, o.c, false)] else []) fun s =>
    let w := s.warp
    let lanes := bodyLanes w s.width o.u
    let addr := bnkAddr w s.width row (!two) o
    let new := fun l old => (g (BitVec.ofNat 32 old) (lane32 w s.width o.b l) (lane32 w s.width o.c l)).toNat
    let run := fun (s : State) =>
      let (olds, s) := modifyLanes lanes addr new s
      if ret then putOlds o olds s else s.retire o
    localGate o.u lanes addr 4 (if ret then poisonGate o.u lanes addr 4 run
      else fun s => run (verifyLanes lanes addr 4 s)) s
/-- BNK.XMS: each lane's x on its own pair, or with ROW one update with the lanes' x in ascending order on the pair at b. -/
def bnkXmsOp (row : Bool) (o : Opd) : State → State :=
  vecGate o [(0, o.a, false), (1, o.b, false)] fun s =>
    let w := s.warp
    let lanes := bodyLanes w s.width o.u
    let addr := if row then fun _ => locVal w s.width o.a 0 else localAddr w s.width o true
    let x := fun l => (lane32 w s.width o.b l).toNat
    localGate o.u lanes addr 8 (fun s =>
      (if row then s.xmsAt s.wg (addr 0).toNat (lanes.map x)
       else lanes.foldl (fun s l => s.xmsAt s.wg (addr l).toNat [x l]) s).retire o) s

/-! BULK and BCPY. -/

/-- Two spans have a byte in common; the lowest. -/
def overlaps (a an b bn : Nat) : Bool := 0 < an && 0 < bn && a < b + bn && b < a + an
/-- Check 1 of R63 for an object at a local offset against local ranges (start, length). -/
def objectOk (g : Wg) (obj : Nat) (ranges : List (Nat × Nat)) : Bool :=
  obj % 16 = 0 && obj + 16 ≤ g.alloc && !ranges.any fun r => overlaps obj 16 r.1 r.2
/-- The first offset of a local range outside the allocation (check 2 of R63); an offset of 2^32 or more is outside even
where the range is empty (R83). -/
def firstOutside (g : Wg) (ranges : List (Nat × Nat)) : Option Nat :=
  ranges.findSome? fun r =>
    if 2 ^ 32 ≤ r.1 || (r.2 ≠ 0 && g.alloc < r.1 + r.2) then some (Nat.max r.1 g.alloc) else none
/-- A fault of an instruction that acts once for the warp: the lanes are exec. -/
def State.refuse (cause addr : Nat) (s : State) : State := s.raiseW (BitVec.ofNat 8 cause) (BitVec.ofNat 64 addr)

/-- The shape of a BULK (R102): base, counts and strides. -/
structure Shape3 where
  base : Nat
  n0 : Nat
  n1 : Nat
  n2 : Nat
  t1 : Int
  t2 : Int
deriving DecidableEq, Repr
/-- Lowest byte touched, and one past the highest; without an element, the base. -/
def Shape3.lo (d : Shape3) : Int :=
  if d.n0 * d.n1 * d.n2 = 0 then d.base
  else d.base + min 0 (d.t1 * (d.n1 - 1 : Nat)) + min 0 (d.t2 * (d.n2 - 1 : Nat))
def Shape3.hi (d : Shape3) : Int :=
  if d.n0 * d.n1 * d.n2 = 0 then d.base
  else d.base + 4 * d.n0 + max 0 (d.t1 * (d.n1 - 1 : Nat)) + max 0 (d.t2 * (d.n2 - 1 : Nat))
/-- Local offset of element (i0, i1, i2). -/
def Shape3.at (d : Shape3) (i0 i1 i2 : Nat) : Nat := ((d.base : Int) + 4 * i0 + d.t1 * i1 + d.t2 * i2).toNat
/-- A shape record's fields (R114), and whether they keep their limits. -/
def shapeRecord (base : Nat) (b : List Byte) : Shape3 × Bool :=
  let f := fun i n => leNat ((b.drop i).take n)
  let d : Shape3 := ⟨base, f 0 2, f 2 2, f 4 2, sext 32 (f 8 4), sext 32 (f 12 4)⟩
  (d, 1 ≤ d.n0 && 1 ≤ d.n1 && 1 ≤ d.n2 && f 6 2 = 0 && d.t1 % 4 = 0 && d.t2 % 4 = 0)

/-- The checks of BULK once its shape is known (R115): the first failing cause and address. `bad` is the address of a
length or record failure. That a range which begins below offset 0 records its negative first offset, in 64-bit two's
complement, with cause 0x0C is the model's choice (log 29). -/
def bulkFault (g : Wg) (obj : Nat) (d : Shape3) (bad : Option Nat) (pair : Option Nat) : Option (Nat × Nat) :=
  let lo := d.lo.toNat
  let n := (d.hi - max 0 d.lo).toNat
  let prs := match pair with | some p => [(p, 8 * d.n1 * d.n2)] | none => []
  if !objectOk g obj ((lo, n) :: prs) then some (0x12, obj)
  else if d.lo < 0 then some (0x0C, (BitVec.ofInt 64 d.lo).toNat)
  else match firstOutside g ((lo, n) :: prs) with
  | some a => some (0x0C, a)
  | none =>
    match bad with
    | some a => some (0x14, a)
    | none =>
      if d.base % 4 ≠ 0 then some (0x14, d.base)
      else match prs with
      | (p, pn) :: _ =>
        if p % 8 ≠ 0 then some (0x14, p) else if overlaps lo n p pn then some (0x14, Nat.max lo p) else none
      | [] => none

/-- A command enters the core's bank units. -/
def State.bankIssue (mk : Nat → BankCmd) (o : Opd) (s : State) : State :=
  let s := s.flushReds s.cur
  let c := s.core
  ({ s.setCore { c with bank := c.bank ++ [mk s.nextCmd] } with nextCmd := s.nextCmd + 1 }).retire o
/-- BULK (R114, R115). That checks 1 and 3 take a length that is not a multiple of 4 as the elements that fit in it whole is
the model's choice (log 16). -/
def bulkOp (op : BulkOp) (shape bf : Bool) (obj16 : BitVec 16) (o : Opd) : State → State :=
  vecGate o [(0, o.a, false), (1, o.b, false)] fun s =>
    let w := s.warp
    let g := s.wg
    let obj := 16 * obj16.toNat
    let base := (locVal w s.width o.a 0).toNat
    let b := (locVal w s.width o.b 0).toNat
    let pair := if op = .xms then some (readS w o.d).toNat else none
    let issue := fun (d : Shape3) (s : State) => s.bankIssue (fun id =>
      .bulk id (wgOf s.cur) (warpNo s.cur) op bf (lane32 w s.width o.c 0) ((readS w o.d).setWidth 32) d.base d.n0 d.n1 d.n2
        d.t1 d.t2 (pair.getD 0) obj) o
    let check := fun (d : Shape3) (bad : Option Nat) (s : State) =>
      match bulkFault g obj d bad pair with
      | some (c, a) => s.refuse c a
      | none => issue d s
    if !shape then
      check ⟨base, b / 4, 1, 1, 0, 0⟩ (if b % 4 ≠ 0 ∨ b < 4 ∨ 2 ^ 20 < b then some base else none) s
    else if !objectOk g obj [] then s.refuse 0x12 obj
    else if b % 16 ≠ 0 then s.refuse 0x14 b
    else if g.alloc < b + 16 then s.refuse 0x0C (Nat.max b g.alloc)
    else
      let (bytes, s) := s.locRead g b 16
      if s.locPoisoned g b 16 then s.refuse 0x38 b
      else
        let (d, ok) := shapeRecord base bytes
        check d (if ok then none else some b) s
/-- BCPY (R116). -/
def bcpyOp (rot : BitVec 2) (obj16 : BitVec 16) (o : Opd) : State → State :=
  vecGate o [(0, o.a, false), (1, o.b, false), (2, o.c, false)] fun s =>
    let w := s.warp
    let g := s.wg
    let obj := 16 * obj16.toNat
    let d := (locVal w s.width o.a 0).toNat
    let a := (locVal w s.width o.b 0).toNat
    let n := (locVal w s.width o.c 0).toNat
    if !objectOk g obj [(d, n), (a, n)] then s.refuse 0x12 obj
    else match firstOutside g [(d, n), (a, n)] with
    | some x => s.refuse 0x0C x
    | none =>
      if overlaps d n a n then s.refuse 0x0C (Nat.max d a)
      else if d % 64 ≠ 0 ∨ a % 64 ≠ 0 ∨ ((d : Int) - a) % 1024 ≠ 0 ∨ n = 0 ∨ n % 64 ≠ 0 then s.refuse 0x14 d
      else s.bankIssue (fun id => .bcpy id (wgOf s.cur) (warpNo s.cur) d a n rot.toNat obj) o

/-- The issuing warp, and the local spans a bank command touches. -/
def BankCmd.by : BankCmd → Nat × Nat
  | .bulk _ g w .. => (g, w)
  | .bcpy _ g w .. => (g, w)
def BankCmd.spans : BankCmd → List (Nat × Nat)
  | .bulk _ _ _ op _ _ _ base n0 n1 n2 t1 t2 pair _ =>
    let d : Shape3 := ⟨base, n0, n1, n2, t1, t2⟩
    (d.lo.toNat, (d.hi - d.lo).toNat) :: if op = .xms then [(pair, 8 * n1 * n2)] else []
  | .bcpy _ _ _ dst src len .. => [(dst, len), (src, len)]
/-- It precedes another command of its warp on a common word (R115). -/
def BankCmd.holds (p c : BankCmd) : Bool :=
  p.by = c.by && p.spans.any fun x => c.spans.any fun y => overlaps x.1 x.2 y.1 y.2

/-- The word operation of a BULK (R114). -/
def bulkWord (op : BulkOp) (bf : Bool) (w a b : Word) : Word :=
  match op with
  | .add => ochreAdd w a b
  | .max => ochreMax w a b
  | .min => ochreMin w a b
  | .fadd => ochreFadd bf w a b
  | .fmax => ochreFmax bf w a b
  | .fmin => ochreFmin bf w a b
  | .fmul => ochreFmul bf w a b
  | .fma => ochreFma bf w a b
  | .xms | .fill => a
/-- One element; POISON where its word is poisoned. -/
def bulkElem (g : Wg) (f : Word → Word) (off : Nat) (acc : Bool × State) : Bool × State :=
  let s := acc.2.verify g.core (g.base + off) 4
  if s.locPoisoned g off 4 then (true, s)
  else (acc.1, s.locWrite g off (leBytes 4 (f (BitVec.ofNat 32 (s.loc32 g off))).toNat))
/-- One row of the XMS form: poisoned elements are left out. -/
def bulkRow (g : Wg) (offs : List Nat) (pair : Nat) (acc : Bool × State) : Bool × State :=
  let s := offs.foldl (fun s off => s.verify g.core (g.base + off) 4) acc.2
  let s := s.verify g.core (g.base + pair) 8
  let good := offs.filter fun off => !s.locPoisoned g off 4
  (acc.1 || good.length ≠ offs.length || s.locPoisoned g pair 8, s.xmsAt g pair (good.map fun off => s.loc32 g off))
/-- The elements of a BULK in ascending linear index (R102). That BULK.XMS ignores whatever scalar or IMM10 its field C holds is
the model's choice (log 29). -/
def bulkRun (g : Wg) (op : BulkOp) (bf : Bool) (a b : Word) (d : Shape3) (pair : Nat) (s : State) : Bool × State :=
  (List.range d.n2).foldl (fun acc i2 => (List.range d.n1).foldl (fun acc i1 =>
    if op = .xms then bulkRow g ((List.range d.n0).map fun i0 => d.at i0 i1 i2) (pair + 8 * (i1 + d.n1 * i2)) acc
    else (List.range d.n0).foldl (fun acc i0 => bulkElem g (fun w => bulkWord op bf w a b) (d.at i0 i1 i2) acc) acc) acc)
    (false, s)
/-- One chunk of a BCPY: read wholly, then its words written rotated (R104). -/
def bcpyChunk (g : Wg) (dst src rot : Nat) (acc : Bool × State) : Bool × State :=
  let s := acc.2.verify g.core (g.base + src) 64
  let words := (List.range 4).map fun i =>
    (i, s.padRead g.core (g.base + src + 16 * i) 16, s.locPoisoned g (src + 16 * i) 16)
  words.foldl (fun acc (i, b, bad) =>
    let p := g.base + dst + 16 * ((i + rot) % 4)
    let s := acc.2.padWrite g.core p b
    (acc.1 || bad, if bad then s.padPoison g.core (p / 16) else s)) (acc.1, s)
/-- A bank command runs and arrives with its count (R102, R104). -/
def bankRun (c : BankCmd) (s : State) : State :=
  match c with
  | .bulk _ wg _ op bf a b base n0 n1 n2 t1 t2 pair obj =>
    let g := s.wgAt wg
    let (poison, s) := bulkRun g op bf a b ⟨base, n0, n1, n2, t1, t2⟩ pair s
    s.arrive g.core (g.base + obj) (4 * n0 * n1 * n2) (if poison then 4 else 0)
  | .bcpy _ wg _ dst src len rot obj =>
    let g := s.wgAt wg
    let (poison, s) := (List.range (len / 64)).foldl (fun acc i => bcpyChunk g (dst + 64 * i) (src + 64 * i) rot acc)
      (false, s)
    s.arrive g.core (g.base + obj) len (if poison then 4 else 0)
def BankCmd.isBulk : BankCmd → Bool | .bulk .. => true | .bcpy .. => false
/-- The `i`th command of a core's bank units, if it is of the kind asked for and no earlier one holds it, runs. -/
def bankEvent (bulk : Bool) (core i : Nat) (s : State) : State :=
  let c := s.coreAt core
  match c.bank[i]? with
  | none => s
  | some b =>
    if b.isBulk ≠ bulk ∨ (c.bank.take i).any (·.holds b) then s
    else bankRun b (s.setCoreAt core { c with bank := c.bank.eraseIdx i })
/-- BULK_COMPLETE (R102). -/
def execBulkComplete (core i : Nat) (s : State) : Res := .next (bankEvent true core i s)
/-- BCPY_COMPLETE (R104). -/
def execBcpyComplete (core i : Nat) (s : State) : Res := .next (bankEvent false core i s)

/-! Tags (R117). -/

/-- The slot of a key in a partition. -/
def tagFind (k : Word) (t : List TagEntry) : Option (BitVec 20) := (t.find? (·.key = k)).map TagEntry.slot
/-- One lane of TAGL, TAGI, TAGD: its result and the partition after it. `cap` is T. -/
def taglLane (_ : Nat) (k _ : Word) (t : List TagEntry) : Word × List TagEntry :=
  (((tagFind k t).map (·.setWidth 32)).getD 0xFFFFFFFF, t)
def tagiLane (cap : Nat) (k v : Word) (t : List TagEntry) : Word × List TagEntry :=
  if k = 0xFFFFFFFF ∨ 2 ^ 20 ≤ v.toNat then (3, t)
  else match tagFind k t with
  | some _ => (1, t.map fun e => if e.key = k then ⟨k, v.setWidth 20⟩ else e)
  | none => if cap ≤ t.length then (2, t) else (0, t ++ [⟨k, v.setWidth 20⟩])
def tagdLane (_ : Nat) (k _ : Word) (t : List TagEntry) : Word × List TagEntry :=
  match tagFind k t with
  | some v => (v.setWidth 32, t.filter (·.key ≠ k))
  | none => (0xFFFFFFFF, t)
/-- A tag instruction: lanes in ascending order, each seeing the earlier ones' effects. -/
def tagOp (two : Bool) (lane : Nat → Word → Word → List TagEntry → Word × List TagEntry) (o : Opd) : State → State :=
  vecGate o ([(0, o.a, false)] ++ if two then [(1, o.b, false)] else []) fun s =>
    let w := s.warp
    let g := s.wg
    let (res, tags) := (bodyLanes w s.width o.u).foldl (fun (acc : List (Nat × Nat) × List TagEntry) l =>
      let (r, t) := lane g.fp.tags (lane32 w s.width o.a l) (lane32 w s.width o.b l) acc.2
      (acc.1 ++ [(l, r.toNat)], t)) ([], g.tags)
    putOlds o res (s.setWg { g with tags := tags })

/-! ACTLD (R184). -/

/-- A header's limits (R182). -/
def sepiaOk (x0 hinv n : Nat) (zeros : List Byte) : Bool :=
  (match F32.dec x0 with | .fin .. => true | _ => false)
    && (match F32.dec hinv with | .fin neg m _ => !neg && m ≠ 0 | _ => false)
    && 1 ≤ n && n ≤ 1024 && zeros.all (· = 0)
/-- The bank a record describes. -/
def sepiaOf (h : List Byte) (segs : List Byte) (n : Nat) : Sepia :=
  let f := fun (b : List Byte) i => BitVec.ofNat 32 (leNat ((b.drop i).take 4))
  { loaded := true, x0 := f h 0, hinv := f h 4, low := f h 8, high := f h 12
    segs := (List.range n).map fun i => (f segs (8 * i), f segs (8 * i + 4)) }
def State.setSepia (bank : Bool) (t : Sepia) (s : State) : State :=
  s.setCore (if bank then { s.core with sepia1 := t } else { s.core with sepia0 := t })
/-- ACTLD: the header's own 32 bytes are checked before they are read, then the record that N makes; then it waits for the ACTs
on the bank that are in flight. -/
def actldOp (bank : Bool) (o : Opd) (s : State) : State :=
  let w := s.warp
  let g := s.wg
  let off := (locVal w s.width o.a 0).toNat
  if w.exec = 0 then s.retire o
  else if off % 16 ≠ 0 then s.refuse 0x0A off
  else if g.alloc < off + 32 then s.refuse 0x0C off
  else
    let (h, s) := s.locRead g off 32
    let n := leNat ((h.drop 16).take 2)
    if s.locPoisoned g off 32 then s.refuse 0x38 off
    else if g.alloc < off + 32 + 8 * n then s.refuse 0x0C off
    else if !sepiaOk (leNat (h.take 4)) (leNat ((h.drop 4).take 4)) n (h.drop 18) then s.refuse 0x14 off
    else
      let (segs, s) := s.locRead g (off + 32) (8 * n)
      if s.locPoisoned g (off + 32) (8 * n) then s.refuse 0x38 off
      else if s.actsInFlight bank (s.actldNo bank) then s.stallSepia bank
      else (s.setSepia bank (sepiaOf h segs n)).retire o

/-- LDL (R110). -/
def execLdl (f : Ops) (w : Width) (s : State) : Res := .next (ldlOp w (opd f) s)
/-- STL (R110). -/
def execStl (f : Ops) (w : Width) (s : State) : Res := .next (stlOp w (opd f) s)
/-- ATOML (R111). -/
def execAtoml (f : Ops) (op : AOp) (o : Order) (s : State) : Res := .next (atomlOp op o (opd f) s)
/-- BNK_ADD (R112). -/
def execBnkAdd (f : Ops) (row : Bool) (s : State) : Res := .next (bnkOp row false false ochreAdd (opd f) s)
/-- BNK_MAX (R112). -/
def execBnkMax (f : Ops) (row : Bool) (s : State) : Res := .next (bnkOp row false false ochreMax (opd f) s)
/-- BNK_MIN (R112). -/
def execBnkMin (f : Ops) (row : Bool) (s : State) : Res := .next (bnkOp row false false ochreMin (opd f) s)
/-- BNK_FADD (R112). -/
def execBnkFadd (f : Ops) (row bf : Bool) (s : State) : Res := .next (bnkOp row false false (ochreFadd bf) (opd f) s)
/-- BNK_FMAX (R112). -/
def execBnkFmax (f : Ops) (row bf : Bool) (s : State) : Res := .next (bnkOp row false false (ochreFmax bf) (opd f) s)
/-- BNK_FMIN (R112). -/
def execBnkFmin (f : Ops) (row bf : Bool) (s : State) : Res := .next (bnkOp row false false (ochreFmin bf) (opd f) s)
/-- BNK_FMUL (R112). -/
def execBnkFmul (f : Ops) (row bf : Bool) (s : State) : Res := .next (bnkOp row false false (ochreFmul bf) (opd f) s)
/-- BNK_FMA (R112). -/
def execBnkFma (f : Ops) (row bf : Bool) (s : State) : Res := .next (bnkOp row true false (ochreFma bf) (opd f) s)
/-- BNK_XMS (R101). -/
def execBnkXms (f : Ops) (row : Bool) (s : State) : Res := .next (bnkXmsOp row (opd f) s)
/-- BNK_CAS (R112). -/
def execBnkCas (f : Ops) (row : Bool) (s : State) : Res := .next (bnkOp row true true ochreCas (opd f) s)
/-- BNK_XCHG (R112). -/
def execBnkXchg (f : Ops) (row : Bool) (s : State) : Res := .next (bnkOp row false true ochreXchg (opd f) s)
/-- BNK_FILL (R112). -/
def execBnkFill (f : Ops) (row : Bool) (s : State) : Res := .next (bnkOp row false false ochreXchg (opd f) s)
/-- BULK (R114). -/
def execBulk (f : Ops) (op : BulkOp) (shape bf : Bool) (obj : BitVec 16) (s : State) : Res := .next (bulkOp op shape bf obj (opd f) s)
/-- BCPY (R116). -/
def execBcpy (f : Ops) (rot : BitVec 2) (obj : BitVec 16) (s : State) : Res := .next (bcpyOp rot obj (opd f) s)
/-- TAGL (R117). -/
def execTagl (f : Ops) (s : State) : Res := .next (tagOp false taglLane (opd f) s)
/-- TAGI (R117). -/
def execTagi (f : Ops) (s : State) : Res := .next (tagOp true tagiLane (opd f) s)
/-- TAGD (R117). -/
def execTagd (f : Ops) (s : State) : Res := .next (tagOp false tagdLane (opd f) s)
/-- ACTLD (R184). -/
def execActld (f : Ops) (bank : Bool) (s : State) : Res := .next (actldOp bank (opd f) s)

end Sys2Proof.Machine
end

