-- ==== Sys2Proof/Machine/Storage.lean ====
section
/-! DEFINITION. The storage formats of CPYT and their conversion to and from canonical blocks (R45 to R53, R65, R66). -/

namespace Sys2Proof.Machine

/-- A tile-table entry's shape: rows, columns, m, blocks and bytes (R66, R105). -/
def TileEntry.rows (t : TileEntry) : Nat := t.rw.toNat + 1
def TileEntry.cols (t : TileEntry) : Nat := 32 * (t.cb.toNat + 1)
def TileEntry.m (t : TileEntry) : Nat := mOf t.mc.toNat
/-- Blocks of a row (row-blocked) or of a column (column-blocked), and how many such rows or columns. -/
def TileEntry.across (t : TileEntry) : Nat := if t.layout then t.rows / 32 else t.cols / 32
def TileEntry.lines (t : TileEntry) : Nat := if t.layout then t.cols else t.rows
def TileEntry.blocks (t : TileEntry) : Nat := t.lines * t.across
def TileEntry.bytes (t : TileEntry) : Nat := t.blocks * blockBytes t.m
/-- Local offset of block (x, b). -/
def TileEntry.blockAt (t : TileEntry) (x b : Nat) : Nat := t.base.toNat + (x * t.across + b) * blockBytes t.m

/-- Bits of an element of an element-wise or MX format. -/
def elemBits : Nat → Nat
  | 0 => 32 | 1 | 2 => 16 | 7 | 8 => 6 | 9 | 12 => 4 | _ => 8
/-- The float format of an element; none for an integer. -/
def elemFloat : Nat → Option FFmt
  | 0 => some F32 | 1 => some F16 | 2 => some BF16 | 3 | 5 => some E4M3 | 4 | 6 => some E5M2
  | 7 => some E2M3 | 8 => some E3M2 | 9 => some E2M1 | _ => none
def isMxCode (f : Nat) : Bool := 5 ≤ f && f ≤ 9
def isBfpCode (f : Nat) : Bool := f = 13 || f = 14

/-- The blocks' elements lie along stored rows (R66). -/
def TileCopy.along (t : TileCopy) : Bool := t.tile.layout = t.transpose
/-- Stored rows, and the elements and bytes of one. -/
def TileCopy.storedRows (t : TileCopy) : Nat := if t.transpose then t.tile.cols else t.tile.rows
def TileCopy.storedElems (t : TileCopy) : Nat := if t.transpose then t.tile.rows else t.tile.cols
def TileCopy.rowBytes (t : TileCopy) : Nat :=
  if isBfpCode t.fmt then t.tile.across * blockBytes t.tile.m else (t.storedElems * elemBits t.fmt + 7) / 8
def TileCopy.step (t : TileCopy) : Nat := if t.pitch = 0 then t.rowBytes else t.pitch
/-- Bytes from the first to the last of the storage (R88). -/
def TileCopy.extent (t : TileCopy) : Nat := (t.storedRows - 1) * t.step + t.rowBytes
/-- What the command arrives with (R70; the scale bytes of an MX copy out count, log 18). -/
def TileCopy.count (t : TileCopy) : Nat :=
  if t.out then t.storedRows * t.rowBytes + (if isMxCode t.fmt then t.tile.blocks else 0) else t.tile.bytes

/-- A stored byte with its poison. -/
abbrev PByte := Byte × Bool
def anyPoison (l : List PByte) : Bool := l.any Prod.snd

/-! Into a tile. -/

/-- The value of an element's bits, prepared by R50; `scale` is an MX scale byte's exponent, or none for NaN. -/
def elemValue (fmt : Nat) (centre : Bool) (scale : Option Int) (b : Nat) : Dyadic2 :=
  match elemFloat fmt, scale with
  | some f, some k => let d := prepare f (f.dec b); (d.1, d.2 + k)
  | some _, none => (0, 0)
  | none, _ =>
    if fmt = 12 then (sext 4 b, 0) else if fmt = 10 then (sext 8 b, 0)
    else ((b : Int) - (if centre then 128 else 0), 0)
/-- E8M0 (R45, R46). -/
def scaleExp (b : Nat) : Option Int := if b = 255 then none else some ((b : Int) - 127)
/-- Element `i` of a stored row given as one little-endian number. -/
def elemOf (fmt row i : Nat) : Nat := row / 2 ^ (i * elemBits fmt) % 2 ^ elemBits fmt
/-- The canonical block (x, b) of an element-wise or MX copy; `row` gives a stored row as a number, `scale` the scale of
a block by its number. -/
def blockIn (t : TileCopy) (row : Nat → Nat) (scale : Nat → Nat) (x b : Nat) : List Byte :=
  let k : Option Int := if isMxCode t.fmt then scaleExp (scale (x * t.tile.across + b)) else some 0
  let v := fun j => elemValue t.fmt t.centre k
    (if t.along then elemOf t.fmt (row x) (32 * b + j) else elemOf t.fmt (row (32 * b + j)) x)
  let (e, q) := quantise t.tile.m ((List.range 32).map fun j => some (v j))
  blockOf t.tile.m e (q.map fun i => i.getD 0)

/-- A stored header's defects (R49). -/
def headerOk (m h : Nat) : Bool := h / 2 ^ 44 = 0 && h / 2 ^ 40 % 16 = (if m = 16 then 15 else m - 1)
/-- The canonical block of a block's values (R48, R50, R51): the least X, NZ exactly where the mantissa is not 0. R66 expands
every stored format so; that a stored block whose header has none of R49's defects is rebuilt too is the model's choice
(log 18). -/
def rebuildBlock (m : Nat) (b : List Byte) : List Byte :=
  let (x, q) := blockElems m b
  let (e, r) := quantise m (q.map fun v => some (v, (x : Int) - 127))
  blockOf m e (r.map fun i => i.getD 0)
/-- A BFP-m block read, and whether it was defective. -/
def bfpIn (m : Nat) (b : List Byte) : List Byte × Bool :=
  if headerOk m (leNat (b.take 8)) then (rebuildBlock m b, false) else (zeroBlock m, true)
/-- The bytes of a BFPS-m block whose NZ mask has `n` bits. -/
def bfpsLen (m n : Nat) : Nat := 8 + 4 * ((n * m + 31) / 32)
/-- Mantissas of a packed stream put at the places of the NZ bits. -/
def spread (m nz : Nat) : (j n stream : Nat) → List Nat
  | _, 0, _ => []
  | j, n + 1, st =>
    if nz.testBit j then st % 2 ^ m :: spread m nz (j + 1) n (st / 2 ^ m) else 0 :: spread m nz (j + 1) n st
/-- A BFPS-m block of header `h` and stream `st`, in canonical form. -/
def bfpsBlock (m h st : Nat) : List Byte :=
  rebuildBlock m (leBytes 8 h ++ leBytes (4 * m) (packBits m (spread m (h / 2 ^ 8 % 2 ^ 32) 0 32 st)))
/-- The blocks of a BFPS-m stream in order, and whether any was defective: after an overrun every later block is a zero
block. A defective header that does not overrun is passed by the n of its NZ bits (log 18). -/
def bfpsIn (m : Nat) : (n : Nat) → List Byte → List (List Byte) × Bool
  | 0, _ => ([], false)
  | n + 1, s =>
    let h := leNat (s.take 8)
    let k := bfpsLen m ((List.range 32).countP fun j => (h / 2 ^ 8).testBit j)
    if s.length < 8 ∨ s.length < k then (List.replicate (n + 1) (zeroBlock m), true)
    else
      let r := bfpsIn m n (s.drop k)
      if headerOk m h then (bfpsBlock m h (leNat ((s.take k).drop 8)) :: r.1, r.2) else (zeroBlock m :: r.1, true)

/-! Out of a tile. -/

/-- The value q × 2^k. -/
def ofInt2 (q k : Int) : FV := .fin (q < 0) q.natAbs k
/-- An element's bits in a target format: RNE, saturated (R53). -/
def elemOut (fmt : Nat) (q k : Int) : Nat :=
  match elemFloat fmt with
  | some f => f.round .rne true (ofInt2 q k)
  | none =>
    let r : Int × Int := if fmt = 12 then (-8, 7) else if fmt = 10 then (-128, 127) else (0, 255)
    (BitVec.ofInt 32 (toRange .rne r (ofInt2 q k))).toNat % 2 ^ elemBits fmt
/-- The largest exponent of an MX element type (R66). -/
def mxEmax : Nat → Int | 5 => 8 | 6 => 15 | 7 => 2 | 8 => 4 | _ => 2
/-- The scale byte a copy out chooses for a block (R66), within E8M0's range (log 18). -/
def mxScale (fmt x : Nat) (q : List Int) : Nat :=
  let amax := (q.map Int.natAbs).foldl Nat.max 0
  if amax = 0 then 0 else (clampI (0, 254) ((amax.log2 : Int) + x - 127 - mxEmax fmt + 127)).toNat
/-- The bits of element `j` of a block in the target format. -/
def blockElemOut (fmt x : Nat) (q : List Int) (j : Nat) : Nat :=
  if isMxCode fmt then elemOut fmt (q.getD j 0) ((x : Int) - 127 - ((mxScale fmt x q : Int) - 127))
  else elemOut fmt (q.getD j 0) ((x : Int) - 127)
/-- A BFPS-m block packed (R49). Header bytes in a poisoned scratchpad word are counted as zeros, which decides where the next
block begins: the model's choice (log 18). -/
def bfpsOut (m : Nat) (b : List Byte) : List Byte :=
  let h := leNat (b.take 8)
  let st := leNat (b.drop 8)
  let q := ((List.range 32).filter fun j => (h / 2 ^ 8).testBit j).map fun j => st / 2 ^ (j * m) % 2 ^ m
  leBytes 8 h ++ leBytes (bfpsLen m q.length - 8) (packBits m q)

end Sys2Proof.Machine
end

