-- ==== Sys2Proof/Machine/Copy.lean ====
section
/-! DEFINITION. Copy queues, engines and the async copy instructions (R39, R60 to R75, R82 to R90, R303, R323, R367), and
the arrival instructions (R91). -/

namespace Sys2Proof.Machine

/-! Check 5 of R63: the units of a range translated. -/

/-- The outcome: the translations, the failing address, or a wait for a migration. -/
inductive RangeCheck where | ok (l : List Xlat) | bad (addr : Nat) | wait
deriving DecidableEq, Repr
/-- A declared global range: its first address, its length, what the command does there and the tiers it may reach. -/
structure GRange where
  va : DWord
  len : Nat
  kinds : List Acc
  tiers : Nat := 4
deriving DecidableEq, Repr
def GRange.units (r : GRange) : Nat := (r.va.toNat % 2 ^ 19 + r.len + 2 ^ 19 - 1) / 2 ^ 19
/-- The range's bytes in unit `u`, whose first byte is at offset `off` of a tier, lie within the tier's window: those of a peer
page below PEERWIN and below their region's SIZE (R320, R322). -/
def State.inWindow (s : State) (ctx : Nat) (r : GRange) (u tier off : Nat) : Bool :=
  let lo := Nat.max r.va.toNat (u * 2 ^ 19) % 2 ^ 19
  let hi := Nat.min (r.va.toNat + r.len) ((u + 1) * 2 ^ 19) - u * 2 ^ 19
  tier ≠ 3 || off + hi ≤ (s.ctxAt ctx).peerwin && s.peerOk (off + lo) (hi - lo)
/-- `n` units from unit `u` on, in ascending address; a failing unit is named by its first byte (log 16). A range
past address 2^64 − 1 goes on at address 0, the model's choice (log 16). -/
def State.translateUnits (s : State) (core ctx : Nat) (r : GRange) : (u n : Nat) → List Xlat → RangeCheck
  | _, 0, acc => .ok acc
  | u, n + 1, acc =>
    let a : DWord := BitVec.ofNat 64 (u * 2 ^ 19)
    if !canonical a then .bad a.toNat
    else match s.lookup core ctx a with
    | .mig => .wait
    | .invalid => .bad a.toNat
    | .leaf l =>
      if r.kinds.all l.permits && l.tier < r.tiers && s.inWindow ctx r u l.tier (l.base + a.toNat % 2 ^ l.bits) then
        s.translateUnits core ctx r (u + 1) n (acc ++ [⟨a.toNat / 2 ^ 19, l.tier, l.base + a.toNat % 2 ^ l.bits⟩])
      else .bad a.toNat
/-- A range: its size before any unit. -/
def State.checkRange (s : State) (core ctx : Nat) (r : GRange) : RangeCheck :=
  let u := r.va.toNat / 2 ^ 19
  if 64 < r.units then .bad (BitVec.ofNat 64 ((u + 64) * 2 ^ 19)).toNat else s.translateUnits core ctx r u r.units []
/-- Ranges in order. -/
def State.checkRanges (s : State) (core ctx : Nat) : List GRange → List Xlat → RangeCheck
  | [], acc => .ok acc
  | r :: l, acc =>
    match s.checkRange core ctx r with
    | .ok x => s.checkRanges core ctx l (acc ++ x)
    | e => e

/-! A command's accesses, under the translations it obtained at issue. -/

/-- The memory key of an address. -/
def xkey (x : List Xlat) (va : Nat) : Nat :=
  match x.find? fun t => t.unit = va % 2 ^ 64 / 2 ^ 19 with
  | some t => memKey t.tier (t.base + va % 2 ^ 19)
  | none => 0
def isPeer (key : Nat) : Bool := key / 2 ^ 52 = 3
/-- Some byte of a range lies in a peer page. -/
def peerBytes (x : List Xlat) (va n : Nat) : Bool := (List.range n).any fun i => isPeer (xkey x (va + i))
/-- Bytes read: a poisoned line's read as 0 and marked (R73, R87); a peer's are free (log 10). -/
def State.engRead (x : List Xlat) (va n : Nat) (s : State) : List PByte × State :=
  let l := (List.range n).map fun i =>
    let k := xkey x (va + i)
    if isPeer k then (Config.freeByte (s.free + i), false)
    else if s.linePoisoned k then (0, true) else (Tab.get 0 k s.mem, false)
  (l, if peerBytes x va n then { s with free := s.free + n } else s)
/-- A line marked poison. -/
def State.poisonLine (key : Nat) (s : State) : State :=
  if s.linePoison.contains (key / 64) then s else { s with linePoison := s.linePoison ++ [key / 64] }
/-- Bytes written; a marked byte makes its line poison; a peer's memory is outside the machine (log 10). -/
def State.engWrite (x : List Xlat) (va : Nat) (b : List PByte) (s : State) : State :=
  b.zipIdx.foldl (fun s (p : PByte × Nat) =>
    let k := xkey x (va + p.2)
    if isPeer k then s else if p.1.2 then s.poisonLine k else s.writeMem k [p.1.1]) s
/-- Scratchpad bytes read by an engine: a poisoned word's read as 0 and marked (R97). -/
def State.engLocal (g : Wg) (off n : Nat) (s : State) : List PByte × State :=
  let s := s.verify g.core (g.base + off) n
  ((List.range n).map fun i =>
    if s.locPoisoned g (off + i) 1 then (0, true) else (Tab.get 0 (g.base + off + i) (s.coreAt g.core).pad, false), s)
def leP (b : List PByte) : Nat := leNat (b.map Prod.fst)

/-! Issue (R60, R63, R84). -/

def Core.queue (c : Core) (q : Nat) : List Cmd := Tab.get [] q c.queues
def State.queue (s : State) (core q : Nat) : List Cmd := (s.coreAt core).queue q
def State.setQueue (core q : Nat) (l : List Cmd) (s : State) : State :=
  s.setCoreAt core { s.coreAt core with queues := Tab.put [] q l (s.coreAt core).queues }
/-- Nothing with exec empty (R82); a full queue holds the instruction at dispatch (R60). -/
def asyncGate (q : Nat) (o : Opd) (k : State → State) (s : State) : State :=
  if s.warp.exec = 0 then s.retire o
  else if 16 ≤ (s.queue s.wg.core q).length then s.stallOn .queue else k s
/-- The command enters its queue: it can no longer fault. -/
def State.enterQueue (q : Nat) (kind : CmdKind) (x : List Xlat) (obj count : Nat) (s : State) : State :=
  let s := s.flushReds s.cur
  let c : Cmd := { id := s.nextCmd, wg := wgOf s.cur, warp := warpNo s.cur, kind := kind, xlat := x
                   obj := s.wg.base + obj, count := count }
  ({ s with nextCmd := s.nextCmd + 1 } : State).setQueue s.wg.core q (s.queue s.wg.core q ++ [c])
/-- Checks 1 and 2 of R63, then 3, 4 and 5; `bad3` and `bad4` are the addresses of failures of 3 and 4. -/
def asyncChecks (obj : Nat) (locs : List (Nat × Nat)) (bad3 bad4 : Option Nat) (ranges : List GRange)
    (k : List Xlat → State → State) (s : State) : State :=
  if !objectOk s.wg obj locs then s.refuse 0x12 obj
  else match firstOutside s.wg locs with
  | some a => s.refuse 0x0C a
  | none =>
    match bad3, bad4 with
    | some a, _ => s.refuse 0x14 a
    | none, some d => s.refuse 0x10 d
    | none, none =>
      match s.checkRanges s.wg.core s.wg.ctx ranges [] with
      | .wait => s.stallOn .migrate
      | .bad a => s.refuse 0x14 a
      | .ok x => k x s

/-! CPY (R87). -/

def sideOf (loc : Bool) (v : DWord) : Side := if loc then .loc v.toNat else .glob v
def Side.locs (n : Nat) : Side → List (Nat × Nat) | .loc off => [(off, n)] | .glob _ => []
def Side.range (n : Nat) (k : Acc) : Side → List GRange | .glob va => [⟨va, n, [k], 4⟩] | .loc _ => []
/-- The parts of a global range, which goes on at address 0 past 2^64 − 1 (log 16). -/
def globParts (va n : Nat) : List (Nat × Nat) := [(va, Nat.min n (2 ^ 64 - va)), (0, va + n - 2 ^ 64)]
/-- The lowest byte common to two lists of ranges. -/
def lowestCommon (a b : List (Nat × Nat)) : Option Nat :=
  (a.flatMap fun p => b.filterMap fun q => if overlaps p.1 p.2 q.1 q.2 then some (Nat.max p.1 q.1) else none).min?
/-- The lowest byte common to two ranges of one space. -/
def sidesOverlap (a b : Side) (n : Nat) : Option Nat :=
  match a, b with
  | .loc x, .loc y => lowestCommon [(x, n)] [(y, n)]
  | .glob x, .glob y => lowestCommon (globParts x.toNat n) (globParts y.toNat n)
  | _, _ => none
/-- CPY. Of two local ranges outside the allocation the source's first offset is recorded: R63 gives no order, and this is
the model's choice (log 16), as it is that of two failures of check 5, a range that does not translate and an overlap, the
translation comes first. -/
def cpyOp (q : BitVec 3) (srcLocal dstLocal : Bool) (o : Opd) : State → State :=
  asyncGate q.toNat o fun s =>
    let w := s.warp
    let src := sideOf srcLocal (sval w o.a)
    let dst := sideOf dstLocal (readS w o.d)
    let n := (sval w o.b).toNat
    let obj := (sval w o.c).toNat
    asyncChecks obj (src.locs n ++ dst.locs n) (if n = 0 ∨ 2 ^ 25 < n then some n else none) none
      (src.range n .engRead ++ dst.range n .engWrite) (fun x s =>
        match sidesOverlap src dst n with
        | some a => s.refuse 0x14 a
        | none => (s.enterQueue q.toNat (.cpy src dst n) x obj n).retire o) s

/-! CPYT (R67, R88). -/

/-- An MMA in the queue has not read tile `k` of a workgroup yet (R197). -/
def State.tileRead (s : State) (wg k : Nat) : Bool :=
  (s.coreAt (s.wgAt wg).core).matq.any fun m => m.wg = wg && !m.started && match m.kind with
    | .mma _ ta tb .. => ta = k || tb = k
    | _ => false
/-- Tile `k` of the executing workgroup. -/
def Wg.tile (g : Wg) (k : Nat) : TileEntry := Tab.get {} k g.tiles
def Wg.setTile (g : Wg) (k : Nat) (t : TileEntry) : Wg := { g with tiles := Tab.put {} k t g.tiles }
/-- A write into the tile may issue (R67, R197, R200). -/
def State.tileFree (s : State) (k : Nat) : Bool :=
  let t := s.wg.tile k
  (t.state = .empty || t.state = .ready) && !s.tileRead (wgOf s.cur) k
/-- The bytes of the tile, if it is described. -/
def TileEntry.locs (t : TileEntry) : List (Nat × Nat) := if t.v then [(t.base.toNat, t.bytes)] else []
/-- The state change at issue. -/
def Wg.mark (g : Wg) (k : Nat) (st : TileState) : Wg := g.setTile k { g.tile k with state := st }
/-- A failing operand of CPYT (check 3). -/
def TileCopy.bad (t : TileCopy) : Bool :=
  t.fmt = 15 || (t.tile.v && ((t.pitch ≠ 0 && t.pitch < t.rowBytes) || ((isMxCode t.fmt || isBfpCode t.fmt) && !t.along)))
def cpytOp (out : Bool) (q : BitVec 3) (fmt : BitVec 4) (pitch : BitVec 14) (centre transpose : Bool) (o : Opd) :
    State → State :=
  asyncGate q.toNat o fun s =>
    let w := s.warp
    let k := o.d.toNat
    let e := s.wg.tile k
    if e.v && (if out then e.state ≠ .ready else !s.tileFree k) then s.stallOn .tile
    else
      let t : TileCopy := ⟨out, fmt.toNat, k, e, sval w o.a, 16 * pitch.toNat, sval w o.c, centre, transpose⟩
      let obj := (sval w o.b).toNat
      let acc := if out then Acc.engWrite else Acc.engRead
      let ranges := ⟨t.va, t.extent, [acc], 4⟩ :: if isMxCode t.fmt then [(⟨t.scale, e.blocks, [acc], 4⟩ : GRange)] else []
      asyncChecks obj e.locs (if t.bad then some t.va.toNat else none)
        (if e.v && !(e.layout && e.rows ≠ 32 && e.rows ≠ 64) then none else some k) ranges (fun x s =>
          ((s.setWg (s.wg.mark k (if out then .draining else .filling))).enterQueue q.toNat (.cpyt t) x obj t.count).retire o) s

/-! GATH, SCAT, SCAT.RED (R72, R89). -/

/-- An index descriptor's fields, and whether its zero bytes are zero and FLAGS legal. -/
def idxDesc (b : List Byte) : IdxDesc × Bool :=
  let f := fun i n => leNat ((b.drop i).take n)
  (⟨BitVec.ofNat 64 (f 0 8), f 8 4, f 12 2, f 14 1, f 15 1 % 2 = 1, BitVec.ofNat 64 (f 16 8), f 24 4, BitVec.ofNat 64 (f 32 8), f 40 4,
    BitVec.ofNat 32 (f 44 4), f 48 4, f 52 2⟩, f 15 1 < 2 && f 28 4 = 0 && f 54 10 = 0)
/-- Bytes of an element of SCAT.RED (R75). -/
def IdxDesc.width (d : IdxDesc) : Nat := if d.rop = 7 then 8 else 4
/-- The limits of R72, R75 and R89; `kind` is 0 GATH, 1 SCAT, 2 SCAT.RED. -/
def IdxDesc.ok (d : IdxDesc) (kind : Nat) : Bool :=
  canonical d.abase && d.abase.toNat % d.width = 0 && d.aext ≠ 0 && d.rowb % d.width = 0 && 4 ≤ d.rowb && d.rowb ≤ 4096
    && (if d.lev = 2 then d.bbase.toNat % 4 = 0 && d.bext ≠ 0 else d.lev = 1 && d.bbase = 0 && d.bext = 0)
    && d.cbase.toNat % 4 = 0 && 1 ≤ d.n && d.n ≤ 65536 && d.loc % 4 = 0 && (if kind = 2 then d.rop < 12 else d.rop = 0)
    && !(kind = 0 && d.cLocal && overlaps d.loc (d.n * d.rowb) d.cbase.toNat (4 * d.n))
/-- Local ranges: the rows, then C (log 16). -/
def IdxDesc.locs (d : IdxDesc) : List (Nat × Nat) := (d.loc, d.n * d.rowb) :: if d.cLocal then [(d.cbase.toNat, 4 * d.n)] else []
/-- Global ranges in the order C, B, A. -/
def IdxDesc.ranges (d : IdxDesc) (kind : Nat) : List GRange :=
  (if d.cLocal then [] else [(⟨d.cbase, 4 * d.n, [.engRead], 4⟩ : GRange)])
    ++ (if d.lev = 2 then [(⟨d.bbase, 4 * d.bext, [.engRead], 4⟩ : GRange)] else [])
    ++ [⟨d.abase, d.aext * d.rowb, if kind = 0 then [.engRead] else if kind = 1 then [.engWrite] else [.engRead, .engWrite],
        if kind = 2 then 2 else 4⟩]
def idxKind (kind : Nat) (d : IdxDesc) : CmdKind := if kind = 0 then .gath d else if kind = 1 then .scat d else .scatRed d
def gathOp (kind : Nat) (q : BitVec 3) (o : Opd) : State → State :=
  asyncGate q.toNat o fun s =>
    let g := s.wg
    let off := (sval s.warp o.a).toNat
    let obj := (sval s.warp o.b).toNat
    if g.alloc < off + 64 then
      (if objectOk g obj [] then s.refuse 0x0C (Nat.max off g.alloc) else s.refuse 0x12 obj)
    else
      let (b, s) := s.locRead g off 64
      if s.locPoisoned g off 64 then s.refuse 0x38 off
      else
        let (d, z) := idxDesc b
        asyncChecks obj d.locs (if off % 16 = 0 && z && d.ok kind then none else some off) none (d.ranges kind) (fun x s =>
          (s.enterQueue q.toNat (idxKind kind d) x obj (d.n * d.rowb)).retire o) s

/-- QFENCE (R90): it waits for every command now ahead in the queues it names. -/
def qfenceOp (hasObj : Bool) (q : BitVec 3) (o : Opd) : State → State :=
  asyncGate q.toNat o fun s =>
    let mask := (sval s.warp o.a).toNat
    let obj := (sval s.warp o.b).toNat
    let c := s.core
    let waits := (List.range 8).flatMap fun k => if mask.testBit k then (c.queue k).map Cmd.id else []
    if hasObj && !objectOk s.wg obj [] then s.refuse 0x12 obj
    else if 256 ≤ mask then s.refuse 0x14 mask
    else (s.enterQueue q.toNat (.qfence waits hasObj) [] obj 1).retire o

/-! Arrival instructions (R91). -/

/-- The object's check, then the count's limit, and the operation on the object at physical offset. That cause 0x12 for a
count outside its limit records the object's offset is the model's choice (log 29). -/
def arvOp (k : Nat → Nat → State → State) (o : Opd) (s : State) : State :=
  let obj := (sval s.warp o.a).toNat
  let n := (sval s.warp o.b).toNat
  if s.warp.exec = 0 then s.retire o
  else if !objectOk s.wg obj [] || n = 0 || 2 ^ 47 ≤ n then s.refuse 0x12 obj
  else (k (s.wg.base + obj) n s).retire o
def arvInitAt (p n : Nat) (s : State) : State := s.padWrite s.wg.core p (leBytes 8 n ++ leBytes 8 n)
def arvAddAt (flags : BitVec 3) (p n : Nat) (s : State) : State := (s.flushReds s.cur).arrive s.wg.core p n flags
/-- Word 0 after ARV.EXP: REM raised, saturating with BOUND. -/
def expWord (w0 n : Nat) : Nat :=
  let rem := sext 48 w0 + (n : Int)
  let hi := w0 / 2 ^ 48
  if 2 ^ 47 - 1 < rem then 2 ^ 47 - 1 + 2 ^ 48 * (hi ||| 2 ^ 10) else (BitVec.ofInt 48 rem).toNat + 2 ^ 48 * hi
/-- ARV.EXP on the object at physical offset `p`. That of an object in a poisoned word it returns the bytes under the mark,
and does not trap, is the model's choice (log 29). -/
def arvExpAt (d : Reg) (p n : Nat) (s : State) : State :=
  let s := s.verify s.wg.core p 8
  let w0 := leNat (s.padRead s.wg.core p 8)
  let s := s.padWrite s.wg.core p (leBytes 8 (expWord w0 n))
  s.setWarp (writeS s.warp d (BitVec.ofNat 64 w0))

/-! What the commands do (R62 stage 2). Each returns its status flags: POISON 4, BOUND 2. -/

def poisonFlag (b : Bool) : BitVec 3 := if b then 4 else 0
def boundFlag (b : Bool) : BitVec 3 := if b then 2 else 0

def Side.read (x : List Xlat) (g : Wg) (n : Nat) : Side → State → List PByte × State
  | .loc off, s => s.engLocal g off n
  | .glob va, s => s.engRead x va.toNat n
def Side.write (x : List Xlat) (g : Wg) (b : List PByte) : Side → State → State
  | .loc off, s => s.locWrite g off (b.map Prod.fst)
  | .glob va, s => s.engWrite x va.toNat b
/-- CPY performs: every byte is read before any is written, so that two ranges of one frame give the value from before, one
of the two that R64 allows: the model's choice (log 32). -/
def runCpy (x : List Xlat) (g : Wg) (src dst : Side) (n : Nat) (s : State) : BitVec 3 × State :=
  let (b, s) := src.read x g n s
  (poisonFlag (anyPoison b), dst.write x g b s)

/-- The stored rows read. -/
def readRows (t : TileCopy) (x : List Xlat) (s : State) : List (List PByte) × State :=
  (List.range t.storedRows).foldl (fun (acc : List (List PByte) × State) r =>
    let (b, s) := acc.2.engRead x (t.va.toNat + r * t.step) t.rowBytes
    (acc.1 ++ [b], s)) ([], s)
/-- The canonical blocks of a copy in, and whether a stored block was defective. A BFPS-m stream runs through the ROWBYTES
bytes of each stored row in turn: with a pitch above ROWBYTES that is the model's choice (log 18). -/
def blocksIn (t : TileCopy) (rows : List (List PByte)) (scales : List PByte) : List (List Byte) × Bool :=
  let m := t.tile.m
  if t.fmt = 14 then bfpsIn m t.tile.blocks (rows.flatten.map Prod.fst)
  else if t.fmt = 13 then
    let bs := (List.range t.tile.blocks).map fun i => bfpIn m
      ((((rows.flatten).drop (i * blockBytes m)).take (blockBytes m)).map Prod.fst)
    (bs.map Prod.fst, bs.any Prod.snd)
  else
    let nums := rows.map leP
    ((List.range t.tile.blocks).map fun i => blockIn t (fun r => nums.getD r 0) (fun k => ((scales.map Prod.fst).getD k 0).toNat)
      (i / t.tile.across) (i % t.tile.across), false)
/-- A CPYT in performs. That a stored header in a poisoned line is read as zeros, which are no header of R49's, so that its
block is a zero block and BOUND is set besides POISON, is the model's choice (log 18); so is that an MX scale byte in a poisoned line
is read as 0x00. -/
def runCpytIn (t : TileCopy) (x : List Xlat) (g : Wg) (s : State) : BitVec 3 × State :=
  let (rows, s) := readRows t x s
  let (scales, s) := if isMxCode t.fmt then s.engRead x t.scale.toNat t.tile.blocks else ([], s)
  let (blocks, bad) := blocksIn t rows scales
  (poisonFlag (rows.any anyPoison || anyPoison scales) ||| boundFlag bad, s.locWrite g t.tile.base.toNat blocks.flatten)

/-- The tile's blocks read from scratchpad, in order, each with whether a word of it is poisoned. -/
def readBlocks (t : TileEntry) (g : Wg) (s : State) : List (List Byte × Bool) × State :=
  (List.range t.blocks).foldl (fun (acc : List (List Byte × Bool) × State) i =>
    let (b, s) := acc.2.engLocal g (t.base.toNat + i * blockBytes t.m) (blockBytes t.m)
    (acc.1 ++ [(b.map Prod.fst, anyPoison b)], s)) ([], s)
/-- One stored row of a copy out in an element-wise or MX format: its bytes, those of poisoned blocks marked. R87 and R97 say of a
poisoned word that POISON is set: that every element of the word's whole block, and its scale byte (`scalesOut`), is marked is the
model's choice (log 18). -/
def rowOut (t : TileCopy) (blocks : List (List Byte × Bool)) (r : Nat) : List PByte :=
  let place := fun i => if t.along then (r * t.tile.across + i / 32, i % 32) else (i * t.tile.across + r / 32, r % 32)
  let val := fun i =>
    let (b, j) := place i
    let (e, q) := blockElems t.tile.m (blocks.getD b ([], false)).1
    blockElemOut t.fmt e q j
  let w := elemBits t.fmt
  let bytes := leBytes t.rowBytes (packBits w ((List.range t.storedElems).map val))
  bytes.zipIdx.map fun (b, k) => (b, (List.range t.storedElems).any fun i =>
    i * w < 8 * k + 8 && 8 * k < i * w + w && (blocks.getD (place i).1 ([], false)).2)
/-- The stored rows of a copy out; a BFPS-m stream is cut into dense-sized rows, which with a non-zero PITCH is the model's
choice (log 18). -/
def rowsOut (t : TileCopy) (blocks : List (List Byte × Bool)) : List (List PByte) :=
  let cut := fun (b : List PByte) => (List.range t.storedRows).map fun r => (b.drop (r * t.rowBytes)).take t.rowBytes
  if t.fmt = 13 then cut (blocks.flatMap fun p => p.1.map fun b => (b, p.2))
  else if t.fmt = 14 then
    let st := blocks.flatMap fun p => (bfpsOut t.tile.m p.1).map fun b => (b, p.2)
    cut (st ++ List.replicate (t.storedRows * t.rowBytes - st.length) (0, false))
  else (List.range t.storedRows).map (rowOut t blocks)
/-- The scale bytes of an MX copy out. -/
def scalesOut (t : TileCopy) (blocks : List (List Byte × Bool)) : List PByte :=
  blocks.map fun p => let (e, q) := blockElems t.tile.m p.1; (BitVec.ofNat 8 (mxScale t.fmt e q), p.2)
def runCpytOut (t : TileCopy) (x : List Xlat) (g : Wg) (s : State) : BitVec 3 × State :=
  let (blocks, s) := readBlocks t.tile g s
  let s := (rowsOut t blocks).zipIdx.foldl (fun s (p : List PByte × Nat) => s.engWrite x (t.va.toNat + p.2 * t.step) p.1) s
  (poisonFlag (blocks.any Prod.snd),
   if isMxCode t.fmt then s.engWrite x t.scale.toNat (scalesOut t blocks) else s)

/-- The values of B that a command has read: all uses of one element see the same (R73). -/
abbrev BCache := List (Nat × Nat × Bool)
/-- The chain of row `i` (R73): the row of A or none, the flags, and the values of B read so far. -/
def chain (d : IdxDesc) (x : List Xlat) (g : Wg) (i : Nat) (bs : BCache) (s : State) :
    Option Nat × BitVec 3 × BCache × State :=
  let (c, s) := if d.cLocal then s.engLocal g (d.cbase.toNat + 4 * i) 4 else s.engRead x (d.cbase.toNat + 4 * i) 4
  let fin := fun k (bs : BCache) s => if k < d.aext then (some k, (0 : BitVec 3), bs, s) else (none, 2, bs, s)
  if anyPoison c then (none, 6, bs, s)
  else if d.lev = 2 then
    if d.bext ≤ leP c then (none, 2, bs, s)
    else match bs.find? (·.1 = leP c) with
    | some (_, v, p) => if p then (none, 6, bs, s) else fin v bs s
    | none =>
      let (b, s) := s.engRead x (d.bbase.toNat + 4 * leP c) 4
      let bs := (leP c, leP b, anyPoison b) :: bs
      if anyPoison b then (none, 6, bs, s) else fin (leP b) bs s
  else fin (leP c) bs s
/-- Rows 0 to N − 1, each with its chain's outcome. -/
def eachRow (d : IdxDesc) (x : List Xlat) (g : Wg) {β : Type} (f : Nat → Option Nat → β × State → BitVec 3 × β × State)
    (b : β) (s : State) : BitVec 3 × β × State :=
  let r := (List.range d.n).foldl (fun (acc : BitVec 3 × BCache × β × State) i =>
    let (k, fl, bs, s) := chain d x g i acc.2.1 acc.2.2.2
    let (fl2, b, s) := f i k (acc.2.2.1, s)
    (acc.1 ||| fl ||| fl2, bs, b, s)) (0, [], b, s)
  (r.1, r.2.2.1, r.2.2.2)
/-- GATH. Each row is a write of its own for R97, which clears the poison of the 16-byte words that it replaces whole: that two
short rows together clear none is the model's choice (log 29). -/
def runGath (d : IdxDesc) (x : List Xlat) (g : Wg) (s : State) : BitVec 3 × State :=
  let r := eachRow d x g (fun i k (acc : Unit × State) =>
    match k with
    | some k =>
      let (b, s) := acc.2.engRead x (d.abase.toNat + k * d.rowb) d.rowb
      (poisonFlag (anyPoison b), (), s.locWrite g (d.loc + i * d.rowb) (b.map Prod.fst))
    | none => (0, (), acc.2.locWrite g (d.loc + i * d.rowb) (List.replicate (d.rowb / 4) (leBytes 4 d.fill.toNat)).flatten))
    () s
  (r.1, r.2.2)
/-- SCAT: ascending i, so that the higher row wins; with whether it wrote peer bytes. -/
def runScat (d : IdxDesc) (x : List Xlat) (g : Wg) (s : State) : BitVec 3 × Bool × State :=
  eachRow d x g (fun i k (acc : Bool × State) =>
    match k with
    | some k =>
      let a := d.abase.toNat + k * d.rowb
      let (b, s) := acc.2.engLocal g (d.loc + i * d.rowb) d.rowb
      (poisonFlag (anyPoison b), acc.1 || peerBytes x a d.rowb, s.engWrite x a b)
    | none => (0, acc.1, acc.2)) false s
/-- The operations of R75. -/
def ropOf : Nat → AOp
  | 1 => .min | 2 => .max | 3 => .minu | 4 => .maxu | 5 => .and | 6 => .xor | 8 => .fadd | 9 => .fmin | 10 => .fmax
  | 11 => .or | _ => .add
/-- A value folded into its address's group. -/
def foldInto (d : IdxDesc) (va v : Nat) : List (Nat × Nat) → List (Nat × Nat)
  | [] => [(va, v)]
  | (a, u) :: r =>
    if a = va then
      (a, if d.width = 8 then (aopNew (ropOf d.rop) (BitVec.ofNat 64 u) (BitVec.ofNat 64 v) 0).toNat
          else (aopNew (ropOf d.rop) (BitVec.ofNat 32 u) (BitVec.ofNat 32 v) 0).toNat) :: r
    else (a, u) :: foldInto d va v r
/-- One row of SCAT.RED combined: groups by address, and the lines that poisoned elements mark. -/
def redRow (d : IdxDesc) (x : List Xlat) (g : Wg) (i k : Nat) (acc : List (Nat × Nat) × State) :
    Bool × List (Nat × Nat) × State :=
  (List.range (d.rowb / d.width)).foldl (fun (acc : Bool × List (Nat × Nat) × State) e =>
    let (b, s) := acc.2.2.engLocal g (d.loc + i * d.rowb + e * d.width) d.width
    let va := d.abase.toNat + k * d.rowb + e * d.width
    if anyPoison b then (true, acc.2.1, s.poisonLine (xkey x va)) else (acc.1, foldInto d va (leP b) acc.2.1, s))
    (false, acc.1, acc.2)
/-- SCAT.RED: the combining; its reductions are sent (R75). -/
def runScatRed (c : Cmd) (d : IdxDesc) (g : Wg) (s : State) : BitVec 3 × List Red × State :=
  let (fl, groups, s) := eachRow d c.xlat g (fun i k acc =>
    match k with
    | some k => let (p, l, s) := redRow d c.xlat g i k acc; (poisonFlag p, l, s)
    | none => (0, acc.1, acc.2)) ([] : List (Nat × Nat)) s
  (fl, groups.map fun p => ⟨c.wg, c.warp, xkey c.xlat p.1, ropOf d.rop, d.width = 8, [BitVec.ofNat 64 p.2]⟩, s)
/-- The side's bytes, as a destination, lie in peer pages, if only in part. -/
def Side.peer (x : List Xlat) (n : Nat) : Side → Bool | .loc _ => false | .glob va => peerBytes x va.toNat n
/-- A CPYT writes peer bytes. -/
def TileCopy.peer (t : TileCopy) (x : List Xlat) : Bool :=
  t.out && ((List.range t.storedRows).any (fun r => peerBytes x (t.va.toNat + r * t.step) t.rowBytes)
    || (isMxCode t.fmt && peerBytes x t.scale.toNat t.tile.blocks))
/-- A command performs; writes of peer bytes are to be acknowledged (R323). -/
def runCmd (c : Cmd) (s : State) : Cmd × State :=
  let g := s.wgAt c.wg
  let fin := fun (peer : Bool) (r : BitVec 3 × State) => ({ c with stage := .performed, flags := r.1, peer := peer }, r.2)
  match c.kind with
  | .cpy src dst n => fin (dst.peer c.xlat n) (runCpy c.xlat g src dst n s)
  | .cpyt t => fin (t.peer c.xlat) (if t.out then runCpytOut t c.xlat g s else runCpytIn t c.xlat g s)
  | .gath d => fin false (runGath d c.xlat g s)
  | .scat d => let r := runScat d c.xlat g s; fin r.2.1 (r.1, r.2.2)
  | .scatRed d =>
    let (fl, reds, s) := runScatRed c d g s
    ({ c with stage := .performed, flags := fl, reds := reds }, s)
  | .qfence .. => (c, s)

/-! The engines (R61, R62, R303). -/

/-- The UNIT number of a copy engine (R301). -/
def engineUnit (die engine : Nat) : BitVec 16 := BitVec.ofNat 16 (1 * 2 ^ 12 + 2 ^ 8 * die + engine)
/-- An engine holds this command. -/
def Cmd.heldBy (engine : Nat) (c : Cmd) : Bool := c.engine = some engine
/-- The queues of a die whose head an engine may take: (id, core, queue), a QFENCE being no engine's work. -/
def State.eligible (s : State) (die : Nat) : List (Nat × Nat × Nat) :=
  (List.range 64).flatMap fun c => (List.range 8).filterMap fun q =>
    match s.queue (64 * die + c) q with
    | h :: _ => if h.stage = .queued && h.engine.isNone && (match h.kind with | .qfence .. => false | _ => true) then
        some (h.id, 64 * die + c, q) else none
    | [] => none
/-- The eligible command that issued earliest. -/
def earliest : List (Nat × Nat × Nat) → Option (Nat × Nat × Nat)
  | [] => none
  | x :: r => match earliest r with | none => some x | some y => if y.1 < x.1 then some y else some x
/-- The engine holds some command of its die. -/
def State.engineBusy (s : State) (die engine : Nat) : Bool :=
  (List.range 64).any fun c => (List.range 8).any fun q => (s.queue (64 * die + c) q).any (Cmd.heldBy engine)
def State.isFrozen (s : State) (die : Nat) (unit : BitVec 16) : Bool := (s.dieAt die).frozen.contains unit
/-- The head of a queue replaced. -/
def State.setHead (core q : Nat) (c : Cmd) (s : State) : State := s.setQueue core q (c :: (s.queue core q).tail)
/-- ENGINE_TAKES_COMMAND (R61): the command performs under the translations of its issue. -/
def engineTakes (die engine : Nat) (s : State) : State :=
  if s.isFrozen die (engineUnit die engine) || s.engineBusy die engine || 12 ≤ engine || 4 ≤ die then s
  else match earliest (s.eligible die) with
  | none => s
  | some (_, core, q) =>
    match s.queue core q with
    | [] => s
    | c :: _ =>
      let (c, s) := runCmd c s
      s.setHead core q { c with engine := some engine }
/-- ENGINE_TAKES_COMMAND (R61). -/
def execEngineTakesCommand (die engine : Nat) (s : State) : Res := .next (engineTakes die engine s)

/-- The tile a command changes back to READY (R67). -/
def CmdKind.tile : CmdKind → Option Nat | .cpyt t => some t.desc | _ => none
/-- The head leaves its queue and arrives with its full count; the tile becomes READY at the same moment (R62, R67, R70). -/
def State.finishHead (core q : Nat) (c : Cmd) (flags : BitVec 3) (s : State) : State :=
  let g := s.wgAt c.wg
  let s := match c.kind.tile with | some k => s.setWgAt c.wg (g.mark k .ready) | none => s
  (s.setQueue core q (s.queue core q).tail).arrive core c.obj c.count flags
/-- The engine that holds a command is frozen. -/
def State.cmdFrozen (s : State) (core : Nat) (c : Cmd) : Bool :=
  c.engine.any fun e => s.isFrozen (core / 64) (engineUnit (core / 64) e)
/-- ASYNC_COMMAND_COMPLETE (R62, R75, R323). -/
def commandComplete (timeout : Bool) (core q : Nat) (s : State) : State :=
  match s.queue core q with
  | [] => s
  | c :: _ =>
    if c.stage ≠ .performed ∨ !c.reds.isEmpty ∨ s.cmdFrozen core c ∨ (timeout ∧ !c.peer) then s
    else s.finishHead core q c (if timeout then c.flags ||| 4 else c.flags)
/-- ASYNC_COMMAND_COMPLETE (R62). -/
def execAsyncCommandComplete (core q : Nat) (s : State) : Res := .next (commandComplete false core q s)
/-- PEER_ACK_TIMEOUT (R323): a peer copy not acknowledged in time arrives with POISON. -/
def execPeerAckTimeout (core q : Nat) (s : State) : Res := .next (commandComplete true core q s)
/-- SCAT_RED_REDUCTION (R75): a poisoned line is left as it is and sets POISON. -/
def scatRedReduction (core q i : Nat) (s : State) : State :=
  match s.queue core q with
  | [] => s
  | c :: _ =>
    match c.reds[i]? with
    | none => s
    | some r =>
      if s.cmdFrozen core c then s
      else
        let c := { c with reds := c.reds.eraseIdx i }
        if s.linePoisoned r.addr then s.setHead core q { c with flags := c.flags ||| 4 }
        else (r.xs.foldl (fun s x => (s.atomicAt r.addr r.op r.w64 x 0).2) s).setHead core q c
/-- SCAT_RED_REDUCTION (R75). -/
def execScatRedReduction (core q i : Nat) (s : State) : Res := .next (scatRedReduction core q i s)
/-- QFENCE_COMPLETE (R60): at its head, once every command it waits for has completed. -/
def qfenceComplete (core q : Nat) (s : State) : State :=
  match s.queue core q with
  | [] => s
  | c :: _ =>
    match c.kind with
    | .qfence waits hasObj =>
      if waits.any fun id => (List.range 8).any fun k => (s.queue core k).any (·.id = id) then s
      else
        let s := s.setQueue core q (s.queue core q).tail
        if hasObj then s.arrive core c.obj 1 0 else s
    | _ => s
/-- QFENCE_COMPLETE (R60). -/
def execQfenceComplete (core q : Nat) (s : State) : Res := .next (qfenceComplete core q s)

/-- CPY (R87). -/
def execCpy (f : Ops) (q : BitVec 3) (srcLocal dstLocal : Bool) (s : State) : Res := .next (cpyOp q srcLocal dstLocal (opd f) s)
/-- CPYT (R88). -/
def execCpyt (f : Ops) (out : Bool) (q : BitVec 3) (fmt : BitVec 4) (pitch : BitVec 14) (centre transpose : Bool) (s : State) : Res := .next (cpytOp out q fmt pitch centre transpose (opd f) s)
/-- GATH (R89). -/
def execGath (f : Ops) (q : BitVec 3) (s : State) : Res := .next (gathOp 0 q (opd f) s)
/-- SCAT (R89). -/
def execScat (f : Ops) (q : BitVec 3) (s : State) : Res := .next (gathOp 1 q (opd f) s)
/-- SCAT_RED (R89). -/
def execScatRed (f : Ops) (q : BitVec 3) (s : State) : Res := .next (gathOp 2 q (opd f) s)
/-- QFENCE (R90). -/
def execQfence (f : Ops) (hasObj : Bool) (q : BitVec 3) (s : State) : Res := .next (qfenceOp hasObj q (opd f) s)
/-- ARV_INIT (R91). -/
def execArvInit (f : Ops) (s : State) : Res := .next (arvOp arvInitAt (opd f) s)
/-- ARV_ADD (R91). -/
def execArvAdd (f : Ops) (flags : BitVec 3) (s : State) : Res := .next (arvOp (arvAddAt flags) (opd f) s)
/-- ARV_EXP (R91). -/
def execArvExp (f : Ops) (s : State) : Res := .next (arvOp (arvExpAt f.d) (opd f) s)

end Sys2Proof.Machine
end

