-- ==== Sys2Proof/Machine/Matrix.lean ====
section
/-! DEFINITION. The tile table and the matrix engine (R54, R67, R105, R192 to R211). -/

namespace Sys2Proof.Machine

/-! TDSET, TDGET, TFREE. -/

/-- An entry in the layout of R105; one never set or freed reads as zeros (R205). -/
def TileEntry.word (t : TileEntry) (owner : Nat) : DWord :=
  if !t.v then 0
  else
    let st := match t.state with | .empty => 0 | .filling => 1 | .ready => 2 | .draining => 3
    BitVec.ofNat 64 (2 ^ 63 + owner % 32 * 2 ^ 58 + st * 2 ^ 56 + (if t.layout then 2 ^ 55 else 0) + t.mc.toNat * 2 ^ 51
      + t.cb.toNat * 2 ^ 47 + t.rw.toNat * 2 ^ 41 + t.base.toNat)
/-- The descriptor of an instruction that names one tile: nothing with exec empty, 0x10 beyond `.tiles` (R203). -/
def tileGate (k : Nat) (o : Opd) (f : State → State) (s : State) : State :=
  if s.warp.exec = 0 then s.retire o else if s.wg.fp.tiles ≤ k then s.refuse 0x10 k else f s
/-- The mantissa code of R47. -/
def mcodeBits : MCode → BitVec 4
  | .m2 => 1 | .m3 => 2 | .m4 => 3 | .m5 => 4 | .m6 => 5 | .m7 => 6 | .m8 => 7 | .m16 => 15
/-- The entry a TDSET describes (R204). -/
def tileOf (rdy : Bool) (m : MCode) (a w : Nat) : TileEntry :=
  { v := true, state := if rdy then .ready else .empty, layout := w.testBit 10, mc := mcodeBits m
    cb := BitVec.ofNat 4 (w / 2 ^ 6), rw := BitVec.ofNat 6 w, base := BitVec.ofNat 20 (4 * a) }
def tdsetOp (rdy : Bool) (m : MCode) (o : Opd) : State → State :=
  let k := o.d.toNat
  tileGate k o fun s =>
    if !s.tileFree k then s.stallOn .tile
    else
      let a := (sval s.warp o.a).toNat
      let w := (sval s.warp o.b).toNat
      let t := tileOf rdy m a w
      if 2 ^ 11 ≤ w ∨ (t.layout ∧ t.rows ≠ 32 ∧ t.rows ≠ 64) then s.refuse 0x10 k
      else if 2 ^ 30 ≤ a then s.refuse 0x0C a
      else if s.wg.alloc < 4 * a + t.bytes then s.refuse 0x0C (4 * a)
      else (s.setWg (s.wg.setTile k t)).retire o
def tdgetOp (o : Opd) (s : State) : State :=
  let k := numOf o.a
  tileGate k o (fun s => s.done o (writeS s.warp o.d ((s.wg.tile k).word s.wg.owner))) s
def tfreeOp (o : Opd) (s : State) : State :=
  let k := numOf o.a
  tileGate k o (fun s => if s.tileFree k then (s.setWg (s.wg.setTile k {})).retire o else s.stallOn .tile) s

/-! The matrix queue (R196). -/

/-- The accumulator's check (R31, R203), nothing with exec empty. -/
def accGate (a : Nat) (o : Opd) (f : State → State) (s : State) : State :=
  if s.warp.exec = 0 then s.retire o else if s.wg.fp.accs ≤ a then s.refuse 0x11 a else f s
/-- The wait at dispatch while the core's queue holds eight operations, before any check (R196); nothing with exec empty. -/
def matrixGate (o : Opd) (f : State → State) (s : State) : State :=
  if s.warp.exec = 0 then s.retire o else if 8 ≤ s.core.matq.length then s.stallOn .matrix else f s
/-- The operation enters the core's queue (R196). -/
def State.queueMatrix (a : Nat) (kind : MatKind) (s : State) : State :=
  { s.setCore { s.core with matq := s.core.matq ++ [⟨s.nextCmd, wgOf s.cur, warpNo s.cur, a, kind, false⟩] } with
    nextCmd := s.nextCmd + 1 }
/-- It enters the queue, and its instruction retires. -/
def State.enterMatrix (a : Nat) (kind : MatKind) (o : Opd) (s : State) : State :=
  ((s.flushReds s.cur).queueMatrix a kind).retire o

/-- R195's checks 2 to 4: the descriptor at fault. -/
def mmaFault (ta tb : Nat) (ea eb : TileEntry) : Option Nat :=
  if !ea.v then some ta else if !eb.v then some tb
  else if ea.state = .empty then some ta else if eb.state = .empty then some tb
  else if !eb.layout ∨ (eb.cols ≠ 32 ∧ eb.cols ≠ 64) ∨ (eb.rows ≠ 32 ∧ eb.rows ≠ 64) ∨ ea.cols ≠ eb.rows then some tb
  else if ea.layout then some ta else none
/-- An operand is not READY yet. -/
def TileEntry.busy (t : TileEntry) : Bool := t.v && (t.state = .filling || t.state = .draining)
/-- MMA and MMA.SP (R207): the waits are at dispatch and in rename, the checks at issue (R195, R196). -/
def mmaOp (sp : Bool) (o : Opd) : State → State :=
  matrixGate o fun s =>
    let ta := numOf o.a
    let tb := numOf o.b
    let ea := s.wg.tile ta
    let eb := s.wg.tile tb
    if ea.busy || eb.busy then s.stallOn .tile
    else accGate o.d.toNat o (fun s =>
      match mmaFault ta tb ea eb with
      | some k => s.refuse 0x10 k
      | none => s.enterMatrix o.d.toNat (.mma sp ta tb ea eb s.warp.exec s.warp.ftz) o) s
/-- ACCZ (R208). -/
def acczOp (o : Opd) : State → State :=
  matrixGate o (accGate o.d.toNat o fun s => s.enterMatrix o.d.toNat (.accz s.warp.exec) o)
/-- Rows whose owner lane is in a mask (R193). -/
def ownedRows (width : Nat) (rows : DWord) : List Nat := (List.range 64).filter fun r => rows.getLsbD (r % width)
/-- ACCL (R209): the bytes of the highest loaded row. -/
def acclOp (o : Opd) : State → State :=
  matrixGate o <| accGate o.d.toNat o fun s =>
    let base := (sval s.warp o.a).toNat
    let top := base + 256 * ((ownedRows s.width s.warp.exec).getLast?.getD 0)
    if base % 16 ≠ 0 then s.refuse 0x0A base
    else if s.wg.alloc < top + 256 then s.refuse 0x0C (Nat.max top s.wg.alloc)
    else s.enterMatrix o.d.toNat (.accl base s.warp.exec) o
/-- An element of an accumulator tile (R192). -/
def Wg.acc (g : Wg) (a i j : Nat) : Word := Tab.get 0 (4096 * a + 64 * i + j) g.accs
/-- The columns that the lanes of an ACCR read (R210). -/
def accrCols (o : Opd) (s : State) : List Nat :=
  (List.range s.width).map fun l => (lane32 s.warp s.width o.b l).toNat % 64
/-- The elements that an ACCR's operation reads: one in each of the rows from `first` on (R210). -/
def Wg.accrRead (g : Wg) (a first : Nat) (cols : List Nat) : List Word :=
  (List.range cols.length).map fun l => g.acc a (first + l) (cols.getD l 0)
/-- ACCR (R210): it enters the queue, takes its place there among the operations on its tile, and retires with what its
operation has read. -/
def accrOp (gr : BitVec 2) (o : Opd) (s : State) : State :=
  if s.warp.exec = 0 then s.retire o
  else match s.warp.stall with
  | some (.accr _ (some got)) => s.done o (s.warp.vputGen s.width false o.d fun l => got.getD l 0)
  | some (.accr _ none) => s
  | _ => matrixGate o (accGate (numOf o.a) o fun s =>
      (s.queueMatrix (numOf o.a) (.accr (gr.toNat * s.width) (accrCols o s))).stallOn (.accr s.nextCmd none)) s
/-- An ACCR that still waits for the operation has what it read. -/
def State.giveAccr (m : MatOp) (got : List Word) (s : State) : State :=
  let k := 32 * m.wg + m.warp
  let w := s.warpAt k
  if w.stall = some (.accr m.id none) then s.setWarpAt k { w with stall := some (.accr m.id (some got)) } else s
/-- ACCD's checks 3 and 4 (R199, R211). That tiles D and C which are at fault for nothing but their overlap give C's number is
the model's choice (log 29). -/
def accdFault (d : Nat) (c : Option Nat) (g : Wg) : Option Nat :=
  let td := g.tile d
  match c with
  | none => if !td.v then some d else if td.layout ∨ (td.cols ≠ 32 ∧ td.cols ≠ 64) then some d else none
  | some c =>
    let tc := g.tile c
    if !td.v then some d else if !tc.v then some c
    else if td.layout ∨ (td.cols ≠ 32 ∧ td.cols ≠ 64) then some d
    else if (td.rows ≠ 32 ∧ td.rows ≠ 64) ∨ (if tc.layout then tc.rows ≠ td.rows ∨ tc.cols ≠ td.cols
        else tc.rows ≠ td.cols ∨ tc.cols ≠ td.rows) ∨ c = d ∨ overlaps td.base.toNat td.bytes tc.base.toNat tc.bytes then
      some c
    else none
/-- The tiles an ACCD writes. -/
def accdTiles (d : Nat) (c : Option Nat) : List Nat := d :: c.toList
/-- ACCD (R211). -/
def accdOp (tr : Bool) (o : Opd) : State → State :=
  let a := numOf o.a
  matrixGate o fun s =>
    let d := o.d.toNat
    let c := if tr then some (numOf o.c) else none
    let obj := (sval s.warp o.b).toNat
    let g := s.wg
    if (accdTiles d c).any fun k => (g.tile k).v && !s.tileFree k then s.stallOn .tile
    else accGate a o (fun s =>
      if !objectOk g obj ((accdTiles d c).flatMap fun k => (g.tile k).locs) then s.refuse 0x12 obj
      else match accdFault d c g with
      | some k => s.refuse 0x10 k
      | none => (s.setWg ((accdTiles d c).foldl (fun g k => g.mark k .filling) g)).enterMatrix a (.accd d c obj) o) s

/-! What the operations do. -/

/-- One block step of R54: `p` is the integer sum, `e` its exponent. An infinity stays, and a NaN stays a NaN: R54 and R57 do
not say which pattern it has then, and that it keeps its own is the model's choice (log 29). -/
def blockStep (ftz : Bool) (acc : Word) (p e : Int) : Word :=
  match F32.inp ftz acc.toNat with
  | .fin neg m x => BitVec.ofNat 32 (F32.out .rne ftz (addFin .rne neg m x (p < 0) p.natAbs e))
  | _ => acc
/-- A tile's blocks decoded: X, elements and whether a word is poisoned. -/
def operand (t : TileEntry) (blocks : List (List Byte × Bool)) : List (Nat × List Int × Bool) :=
  blocks.map fun p => let (x, q) := blockElems t.m p.1; (x, q, p.2)
def dot (a b : List Int) : Int := (List.zipWith (· * ·) a b).sum
/-- The new value of element (i, j): block pairs in ascending b (R54, R197). -/
def mmaElem (ftz : Bool) (nb : Nat) (a b : List (Nat × List Int × Bool)) (i j : Nat) (acc : Word) : Word :=
  (List.range nb).foldl (fun acc k =>
    let (xa, qa, pa) := a.getD (i * nb + k) (0, [], false)
    let (xb, qb, pb) := b.getD (j * nb + k) (0, [], false)
    if pa || pb then 0x7FC00000 else blockStep ftz acc (dot qa qb) ((xa : Int) + xb - 254)) acc
/-- Elements of an accumulator written. -/
def Wg.setAcc (g : Wg) (a : Nat) (l : List (Nat × Nat × Word)) : Wg :=
  { g with accs := l.foldl (fun t p => Tab.put 0 (4096 * a + 64 * p.1 + p.2.1) p.2.2 t) g.accs }
/-- Elements (i, j) of the rows given, columns below `n`. -/
def grid2 (rows : List Nat) (n : Nat) (f : Nat → Nat → Word) : List (Nat × Nat × Word) :=
  rows.flatMap fun i => (List.range n).map fun j => (i, j, f i j)
/-- An operation performs; a drain writes when it completes. -/
def matRun (m : MatOp) (s : State) : State :=
  let g := s.wgAt m.wg
  match m.kind with
  | .mma _ _ _ ea eb rows ftz =>
    let (ba, s) := readBlocks ea g s
    let (bb, s) := readBlocks eb g s
    let a := operand ea ba
    let b := operand eb bb
    s.setWgAt m.wg (g.setAcc m.acc (grid2 ((ownedRows g.fp.width rows).filter (· < ea.rows)) eb.cols fun i j =>
      mmaElem ftz (ea.cols / 32) a b i j (g.acc m.acc i j)))
  | .accz rows => s.setWgAt m.wg (g.setAcc m.acc (grid2 (ownedRows g.fp.width rows) 64 fun _ _ => 0))
  | .accl base rows =>
    let rs := ownedRows g.fp.width rows
    let s := rs.foldl (fun s i => s.verify g.core (g.base + base + 256 * i) 256) s
    s.setWgAt m.wg (g.setAcc m.acc (grid2 rs 64 fun i j =>
      let off := base + 256 * i + 4 * j
      if s.locPoisoned g off 4 then 0 else BitVec.ofNat 32 (s.loc32 g off)))
  | .accr .. | .accd .. => s
/-- The blocks of one tile of a drain: line x, block b from the accumulator's elements (R199). `tr` says that lines are
the accumulator's columns. -/
def drainTile (g : Wg) (a : Nat) (t : TileEntry) (tr : Bool) (lines across : Nat) : List Byte :=
  (List.range lines).flatMap fun x => (List.range across).flatMap fun b =>
    let v := fun j => if tr then g.acc a (32 * b + j) x else g.acc a x (32 * b + j)
    let (e, q) := quantise t.m ((List.range 32).map fun j => some (prepare F32 (F32.dec (v j).toNat)))
    blockOf t.m e (q.map fun i => i.getD 0)
/-- A drain writes its tiles, which become READY, and arrives (R200); an ACCR's operation reads its elements, before any
operation queued behind it on the tile (R196, R210). -/
def matFinish (m : MatOp) (s : State) : State :=
  match m.kind with
  | .accd d c obj =>
    let g := s.wgAt m.wg
    let td := g.tile d
    let s := s.locWrite g td.base.toNat (drainTile g m.acc td false td.rows (td.cols / 32))
    let s := match c with
      | some c => s.locWrite g (g.tile c).base.toNat (drainTile g m.acc (g.tile c) true td.cols (td.rows / 32))
      | none => s
    let g' := (accdTiles d c).foldl (fun g k => g.mark k .ready) g
    (s.setWgAt m.wg g').arrive g.core (g.base + obj) (((accdTiles d c).map fun k => (g.tile k).bytes).sum) 0
  | .accr first cols => s.giveAccr m ((s.wgAt m.wg).accrRead m.acc first cols)
  | _ => s
/-- MATRIX_OPERATION_START (R196): the next operation on its accumulator tile in queue order. -/
def matrixStart (core i : Nat) (s : State) : State :=
  let c := s.coreAt core
  match c.matq[i]? with
  | none => s
  | some m =>
    if m.started ∨ (c.matq.take i).any (fun e => e.wg = m.wg && e.acc = m.acc) then s
    else
      let s := matRun m s
      s.setCoreAt core { s.coreAt core with matq := (s.coreAt core).matq.set i { m with started := true } }
/-- MATRIX_OPERATION_START (R196). -/
def execMatrixOperationStart (core i : Nat) (s : State) : Res := .next (matrixStart core i s)
/-- MATRIX_OPERATION_COMPLETE (R196, R200). -/
def matrixComplete (core i : Nat) (s : State) : State :=
  let c := s.coreAt core
  match c.matq[i]? with
  | none => s
  | some m => if !m.started then s else matFinish m (s.setCoreAt core { c with matq := c.matq.eraseIdx i })
/-- MATRIX_OPERATION_COMPLETE (R196). -/
def execMatrixOperationComplete (core i : Nat) (s : State) : Res := .next (matrixComplete core i s)

/-- TDSET (R204). -/
def execTdset (f : Ops) (rdy : Bool) (m : MCode) (s : State) : Res := .next (tdsetOp rdy m (opd f) s)
/-- TDGET (R205). -/
def execTdget (f : Ops) (s : State) : Res := .next (tdgetOp (opd f) s)
/-- TFREE (R206). -/
def execTfree (f : Ops) (s : State) : Res := .next (tfreeOp (opd f) s)
/-- MMA (R207). -/
def execMma (f : Ops) (s : State) : Res := .next (mmaOp false (opd f) s)
/-- MMA, C form (R207, R16). -/
def execMmaC (f : COps) (s : State) : Res := .next (mmaOp false (copdVV f) s)
/-- MMA_SP (R207). -/
def execMmaSp (f : Ops) (s : State) : Res := .next (mmaOp true (opd f) s)
/-- MMA_SP, C form (R207, R16). -/
def execMmaSpC (f : COps) (s : State) : Res := .next (mmaOp true (copdVV f) s)
/-- ACCZ (R208). -/
def execAccz (f : Ops) (s : State) : Res := .next (acczOp (opd f) s)
/-- ACCZ, C form (R208, R16). -/
def execAcczC (f : COps) (s : State) : Res := .next (acczOp (copdN f) s)
/-- ACCL (R209). -/
def execAccl (f : Ops) (s : State) : Res := .next (acclOp (opd f) s)
/-- ACCR (R210). -/
def execAccr (f : Ops) (g : BitVec 2) (s : State) : Res := .next (accrOp g (opd f) s)
/-- ACCD (R211). -/
def execAccd (f : Ops) (tr : Bool) (s : State) : Res := .next (accdOp tr (opd f) s)

end Sys2Proof.Machine
end

