-- ==== Sys2Proof/Machine/Launch.lean ====
section
/-! DEFINITION. Where a workgroup fits (R156, R240, R241), launch records and their checks (R238, R239, R243, R256, R268,
R269), and the counter and bitmap words that a partition unit updates (R257, R269, R270, R369). -/

namespace Sys2Proof.Machine

/-! Issue slots (R241). -/

/-- What a slot holds: its warps, the general registers reserved, and the width of its warps, 0 for none. -/
structure SlotUse where
  warps : Nat := 0
  regs : Nat := 0
  width : Nat := 0
deriving DecidableEq, Repr
/-- General registers of a slot (R154). -/
def slotRegs (width : Nat) : Nat := 32768 / width
def SlotUse.takes (u : SlotUse) (width n : Nat) : Bool :=
  (u.width = 0 || u.width = width) && u.warps < 8 && u.regs + n + 40 ≤ slotRegs width
/-- The slot for the next warp: one that can take it and holds the fewest warps, the lowest-numbered. -/
def pickSlot (width n : Nat) (l : List SlotUse) : Option Nat :=
  (List.range l.length).foldl (fun best i =>
    let u := l.getD i {}
    if !u.takes width n then best
    else match best with
    | some b => if u.warps < (l.getD b {}).warps then some i else best
    | none => some i) none
/-- Slots for `w` warps in ascending warp number, or none. -/
def assignSlots (width n : Nat) : (w : Nat) → List SlotUse → List Nat → Option (List Nat)
  | 0, _, acc => some acc
  | w + 1, l, acc =>
    match pickSlot width n l with
    | none => none
    | some i =>
      let u := l.getD i {}
      assignSlots width n w (l.set i ⟨u.warps + 1, u.regs + n + 40, width⟩) (acc ++ [i])

/-! Launch records (R268). -/

/-- A record's fields, its CMAP, and whether its reserved codes and zero bytes are legal. -/
def launchFields (b : List Byte) : Footprint × DWord × Bool :=
  let f := fun i n => leNat ((b.drop i).take n)
  ({ entry := BitVec.ofNat 64 (f 0 8), grid := f 8 4, warps := f 12 1, width := 16 * 2 ^ (f 13 1 % 4), die := f 13 1 / 4 % 8
     prio := f 14 1, vregs := f 15 1, sregs := f 16 1, tiles := f 17 1, accs := f 18 1, coh := f 19 1, loc := f 20 4
     tags := f 24 2, pop0 := f 26 1 % 16, args := BitVec.ofNat 64 (f 32 8), counter := BitVec.ofNat 64 (f 40 8)
     bitmap := BitVec.ofNat 64 (f 48 8), map := [] },
   BitVec.ofNat 64 (f 56 8), f 13 1 % 4 < 3 && f 13 1 < 32 && f 26 1 < 16 && f 27 1 = 0 && f 28 4 = 0)
/-- A cohort-map entry in fields, and whether its zero bits are zero. -/
def cohortEntry (e : DWord) : (Word × Nat) × Bool := ((e.setWidth 32, bits e.toNat 35 32), bits e.toNat 63 36 = 0)
/-- Cohort `k`'s members and operation (R242, R244). -/
def Footprint.cohort (f : Footprint) (k : Nat) : Word × Nat :=
  if k = 0 then (BitVec.ofNat 32 (2 ^ f.warps - 1), f.pop0) else f.map.getD (k - 1) (0, 0)
/-- R243 for a map that has been read. -/
def Footprint.mapOk (f : Footprint) : Bool :=
  f.map.all (fun e => e.1 ≠ 0 && e.1.toNat < 2 ^ f.warps && e.2 ≤ 10) && f.pop0 ≤ 10
    && (List.range f.warps).all fun j => (f.map.countP fun e => e.1.getLsbD j) ≤ 3
/-- The limits of R238 and R268, and R239's empty core. `prio` is the launching grid's priority. -/
def Footprint.ok (f : Footprint) (prio : Nat) : Bool :=
  canonical f.entry && f.entry.toNat % 4 = 0 && 1 ≤ f.grid && f.grid ≤ 2 ^ 24 && 1 ≤ f.warps && f.warps ≤ 32 && f.die ≤ 4
    && f.prio ≤ 47 && f.prio ≤ prio && 1 ≤ f.vregs && f.vregs ≤ 64 && 1 ≤ f.sregs && f.sregs ≤ 64 && f.tiles ≤ 16
    && f.accs ≤ 16 && 1 ≤ f.coh && f.coh ≤ 16 && allocSize f.loc f.warps ≤ 2 ^ 20 && f.tags ≤ 1024
    && (assignSlots f.width f.vregs f.warps (List.replicate 4 {}) []).isSome

/-- The unit that translates for the IOD and the partition units: it has no TLB of its own. -/
def noCore : Nat := 256

/-- What the checks of a launch end in (R269): the entry, and the counter word's place, if it has one. -/
inductive LaunchCheck where
  | ok (e : LaunchEntry) (counter : Option Nat) | bad (cause : Nat) | wait
deriving DecidableEq, Repr

/-- The cohort map's entries read, or `bad 0x21`. -/
def State.readMap (s : State) (core ctx : Nat) (cmap : DWord) : (n : Nat) → List DWord → LaunchCheck ⊕ List DWord
  | 0, acc => .inr acc
  | n + 1, acc =>
    match s.xlate core ctx (cmap + BitVec.ofNat 64 (8 * acc.length)) 8 .read with
    | .wait => .inl .wait
    | .bad _ => .inl (.bad 0x21)
    | .ok key _ =>
      if s.linePoisoned key then .inl (.bad 0x38)
      else s.readMap core ctx cmap n (acc ++ [BitVec.ofNat 64 (leNat (s.readMem key 8))])
/-- The counter: an 8-byte word that can be read and written, and its place; or what its check ends in. -/
def State.counterKey (s : State) (core ctx : Nat) (va : DWord) : LaunchCheck ⊕ Option Nat :=
  if va = 0 then .inr none
  else match s.xlate core ctx va 8 .rw with
  | .wait => .inl .wait
  | .bad _ => .inl (.bad 0x21)
  | .ok k l => if l.io then .inl (.bad 0x21) else .inr (some k)
/-- The bitmap: near or capacity pages that can be written. -/
def State.bitmapFault (s : State) (core ctx : Nat) (va : DWord) (grid : Nat) : Option LaunchCheck :=
  if va = 0 then none
  else if va.toNat % 8 ≠ 0 then some (.bad 0x21)
  else match s.checkRange core ctx ⟨va, 8 * ((grid + 63) / 64), [.write], 2⟩ with
  | .wait => some .wait
  | .bad _ => some (.bad 0x21)
  | .ok _ => none
/-- The checks of R269 on the record at `va`, which is read once. -/
def State.launchCheck (s : State) (core ctx : Nat) (va : DWord) (prio : Nat) : LaunchCheck :=
  match s.xlate core ctx va 64 .read with
  | .wait => .wait
  | .bad c => .bad c
  | .ok key _ =>
    if s.linePoisoned key then .bad 0x38
    else
      let raw := s.readMem key 64
      let (f, cmap, z) := launchFields raw
      if !(z && f.ok prio && (if f.coh = 1 then cmap = 0 else cmap ≠ 0 && cmap.toNat % 8 = 0)) then .bad 0x21
      else match s.readMap core ctx cmap (f.coh - 1) [] with
      | .inl x => x
      | .inr map =>
        let f := { f with map := map.map fun e => (cohortEntry e).1 }
        if !(map.all fun e => (cohortEntry e).2) || !f.mapOk then .bad 0x21
        else match s.counterKey core ctx f.counter with
        | .inl x => x
        | .inr k => match s.bitmapFault core ctx f.bitmap f.grid with
          | some x => x
          | none => .ok { raw := raw, map := map, fp := f, push := 0 } k

/-! Counter and bitmap words. -/

/-- What becomes of an update of a word at device scope: done, lost, or waiting for a migration. -/
inductive SignalTo where | key (k : Nat) | lost (unit : Option Nat) | wait
deriving DecidableEq, Repr
/-- Translation with kind read-write when it performs (R369); a refused word's home unit is known where it translates. -/
def State.signalTo (s : State) (ctx : Nat) (va : DWord) : SignalTo :=
  match s.xlate noCore ctx va 8 .rw with
  | .wait => .wait
  | .ok k l => if l.io then .lost (some (homeUnit k)) else .key k
  | .bad _ => match s.lookup noCore ctx va with
    | .leaf l => .lost (some (homeUnit (l.key va.toNat)))
    | _ => .lost none
/-- An atomic update of a 64-bit word. On a poisoned line it is dropped, with no record: R302 names no such reader, and this is the
model's choice (log 21). -/
def State.signalWord (key : Nat) (f : Nat → Nat) (s : State) : State :=
  if s.linePoisoned key then s else s.writeMem key (leBytes 8 (f (leNat (s.readMem key 8))))

/-- The core's clock. -/
def Wg.clk (g : Wg) (s : State) : Nat := (s.coreAt g.core).clk
/-- An entry enters a workgroup's pending-launch queue; the counter's word, where it has one, is incremented (R269). -/
def State.pushLaunch (n : Nat) (e : LaunchEntry) (counter : Option Nat) (s : State) : State :=
  let g := s.wgAt n
  let s := s.setWgAt n { g with launchQ := g.launchQ ++ [{ e with push := g.clk s }] }
  match counter with
  | some k => s.signalWord k (· + 1)
  | none => s

end Sys2Proof.Machine
end

