-- ==== Sys2Proof/Machine/Control.lean ====
section
/-! DEFINITION. Control flow, barriers, waits and LAUNCH (R245, R258 to R272). -/

namespace Sys2Proof.Machine

/-! Transfers (R260, R261). -/

/-- A target field: PC-relative by an immediate or literal in units of four bytes, or a scalar register. -/
def branchTarget (w : Warp) (f : Src) : DWord :=
  match f with
  | .sca r => readS w r
  | f => w.pc + 4 * sval w f
/-- The transfer to `t`, with the link written first. A target both misaligned and non-canonical raises 0x0A, by the model's choice
(log 28). -/
def transfer (t : DWord) (link : Option Reg) (o : Opd) (s : State) : State :=
  if t.toNat % 4 ≠ 0 then s.raiseW 0x0A t
  else if !canonical t then s.raiseW 0x0B t
  else match link with
  | some d => (s.setWarp (writeS s.warp d (s.nextPc o))).goto t o.s
  | none => s.goto t o.s
def jmpOp (o : Opd) (s : State) : State := transfer (branchTarget s.warp o.a) none o s
def callOp (o : Opd) (s : State) : State := transfer (branchTarget s.warp o.a) (some o.d) o s
/-- A branch taken when `p c exec`; a target that is not taken is not checked. -/
def brOp (p : DWord → DWord → Bool) (o : Opd) (s : State) : State :=
  if p (sval s.warp o.a) s.warp.exec then transfer (branchTarget s.warp o.b) none o s else s.retire o
def takenIf (c _ : DWord) : Bool := c ≠ 0
def takenAny (c e : DWord) : Bool := c &&& e ≠ 0
def takenAll (c e : DWord) : Bool := e &&& ~~~c = 0
def takenNone (c e : DWord) : Bool := c &&& e = 0

/-! Barriers (R245, R262, R263). -/

/-- Op(p, x). -/
def popOp (pop : Nat) (p x : DWord) : DWord :=
  match pop with
  | 1 => p + x
  | 2 => maxS p x
  | 3 => minS p x
  | 4 => maxU p x
  | 5 => minU p x
  | 6 => p &&& x
  | 7 => p ||| x
  | 8 => p ^^^ x
  | 9 => BitVec.ofNat 64 (F32.minMax true false (p.toNat % 2 ^ 32) (x.toNat % 2 ^ 32))
  | 10 => BitVec.ofNat 64 (F32.minMax false false (p.toNat % 2 ^ 32) (x.toNat % 2 ^ 32))
  | _ => p
def popIdentity : Nat → DWord
  | 2 => 0x8000000000000000 | 3 => 0x7FFFFFFFFFFFFFFF | 5 | 6 => 0xFFFFFFFFFFFFFFFF | 9 => 0xFF800000 | 10 => 0x7F800000
  | _ => 0
/-- An entry as filled at launch (R244). -/
def Footprint.cohortFill (f : Footprint) (k : Nat) : Cohort :=
  { members := (f.cohort k).1, pop := (f.cohort k).2, payload := popIdentity (f.cohort k).2 }

def Wg.cohort (g : Wg) (k : Nat) : Cohort := Tab.get {} k g.cohorts
def Wg.setCohort (g : Wg) (k : Nat) (e : Cohort) : Wg := { g with cohorts := Tab.put {} k e g.cohorts }
/-- The workgroup's exited warps. -/
def State.exited (s : State) (n : Nat) : Word :=
  BitVec.ofNat 32 ((List.range (s.wgAt n).fp.warps).foldl (fun acc j =>
    if (s.warpAt (32 * n + j)).run = .exited then acc + 2 ^ j else acc) 0)
/-- A blocked warp's instruction retires: on to the next one. -/
def Warp.unblock (w : Warp) : Warp :=
  { w with run := .running, pc := w.pc + BitVec.ofNat 64 w.blkLen, fetched := [], notice := w.notice.map (· + 1) }
/-- A member that waits at cohort `k`'s phase, halted there or not, gets the payload; its BAR retires. -/
def Warp.leaveBar (k : Nat) (r : DWord) (w : Warp) : Warp :=
  match w.run with
  | .bar c d => if c = k then (writeS w d r).unblock else w
  | .halted (some (c, d)) b =>
    if c = k then { writeS w d r with run := .halted none b, pc := w.pc + BitVec.ofNat 64 w.blkLen } else w
  | _ => w
/-- CheckPhase (R262). -/
def State.checkPhase (n : Nat) (s : State) (k : Nat) : State :=
  let g := s.wgAt n
  let e := g.cohort k
  if (e.arrived ||| s.exited n) &&& e.members ≠ e.members then s
  else
    let s := s.setWgAt n (g.setCohort k { e with phase := !e.phase, arrived := 0, payload := popIdentity e.pop })
    (g.keys n).foldl (fun s j => s.setWarpAt j ((s.warpAt j).leaveBar k e.payload)) s
/-- BAR: the arrival and, where it completes the phase, the completion are one step. -/
def barOp (k : Nat) (o : Opd) (s : State) : State :=
  let s := s.flushReds s.cur
  let n := wgOf s.cur
  let g := s.wg
  let e := g.cohort k
  let s := s.setWg (g.setCohort k { e with
    payload := popOp e.pop e.payload (sval s.warp o.a), arrived := e.arrived ||| BitVec.ofNat 32 (2 ^ warpNo s.cur) })
  (s.block (.bar k o.d) o.len).checkPhase n k

/-! Waits (R264 to R267). -/

/-- The phase of the arrival object at a local offset; no rule states it in a poisoned word (log 29). -/
def State.phaseAt (s : State) (g : Wg) (off : Nat) : Bool :=
  let word := (g.base + off) / 16
  if (s.coreAt g.core).poison.contains word then Config.poisonPhase s.free word
  else (leNat (s.padRead g.core (g.base + off) 8)).testBit 56
def awaitOp (o : Opd) (s : State) : State :=
  let off := sval s.warp o.a
  let ph := sval s.warp o.b
  if off.toNat % 16 ≠ 0 ∨ 2 ^ 32 ≤ off.toNat ∨ s.wg.alloc < off.toNat + 16 ∨ 1 < ph.toNat then s.raiseW 0x12 off
  else
    let s := s.verify s.wg.core (s.wg.base + off.toNat) 8
    if s.phaseAt s.wg off.toNat ≠ (ph = 1) then s.retireEnd o else s.block (.await off (ph = 1)) o.len

/-- A word that a warp waits on: its value, or why it is not read. -/
inductive Watched where | word (v : Nat) | bad (cause : Nat) | wait
deriving DecidableEq, Repr
/-- An 8-byte load in the order of R38; poison traps as for any load (R232). -/
def State.watch (s : State) (core ctx : Nat) (va : DWord) : Watched :=
  match s.xlate core ctx va 8 .read with
  | .wait => .wait
  | .bad c => .bad c
  | .ok key _ => if s.linePoisoned key then .bad 0x38 else .word (leNat (s.readMem key 8))
/-- The warp's own reductions on the word come first (R215). -/
def State.flushWatched (k : Nat) (va : DWord) (s : State) : State :=
  let g := s.wgAt (wgOf k)
  match s.xlate g.core g.ctx va 8 .read with
  | .ok key _ => s.flushOver k [(key, 8)]
  | _ => s
/-- A wait on a word: complete where `done` holds of it, else block. -/
def waitWord (va : DWord) (done : Nat → Bool) (r : Run) (o : Opd) (s : State) : State :=
  let s := s.flushWatched s.cur va
  match s.watch s.wg.core s.wg.ctx va with
  | .wait => s.stallOn .migrate
  | .bad c => s.raiseW (BitVec.ofNat 8 c) va
  | .word v => if done v then s.retireEnd o else s.block r o.len
/-- The bitmap word and bit of index `i`. -/
def bitWord (addr i : DWord) : DWord := addr + 8 * (i >>> (6 : Nat))
def bitDone (i : DWord) (v : Nat) : Bool := v.testBit (i.toNat % 64)
def joinDone (v : Nat) : Bool := (BitVec.ofNat 64 v).toInt ≤ 0
def bwaitOp (o : Opd) (s : State) : State :=
  let i := sval s.warp o.b
  let a := sval s.warp o.a
  waitWord (bitWord a i) (bitDone i) (.bwait a i) o s
def joinOp (o : Opd) (s : State) : State :=
  let a := sval s.warp o.a
  waitWord a joinDone (.join a) o s

/-- A blocked warp executes the instruction that it fetched, the oldest of its reorder buffer, afresh. -/
def Warp.again (w : Warp) : Warp :=
  { w with run := .running, rob := (if w.fetched = [] then [] else [⟨w.fetched, false, true, false, none⟩]) ++ w.rob }
/-- WAIT_WAKE (R267): a waiting warp reads its word again and completes or waits on; a word that can no longer be read makes
it execute the instruction it fetched afresh, which faults precisely. A LAUNCH on a full queue is abandoned for an entry that
came while the queue had room (R291). -/
def waitWake (k : Nat) (s : State) : State :=
  let w := s.warpAt k
  let g := s.wgAt (wgOf k)
  let onWord := fun (va : DWord) (done : Nat → Bool) =>
    let s := s.flushWatched k va
    match s.watch g.core g.ctx va with
    | .word v => if done v then s.setWarpAt k w.unblock else s
    | .bad _ => s.setWarpAt k w.again
    | .wait => s
  if g.place ≠ .resident then s
  else match w.run with
  | .await off ph =>
    let s := s.verify g.core (g.base + off.toNat) 8
    if (s.warpAt k).run = .await off ph ∧ s.phaseAt g off.toNat ≠ ph then s.setWarpAt k (s.warpAt k).unblock else s
  | .bwait a i => onWord (bitWord a i) (bitDone i)
  | .join a => onWord a joinDone
  | .ldf => s.setWarpAt k w.again
  | .launch .. => if g.full ∧ !w.handler ∧ !w.trapQ.isEmpty then s.setWarpAt k w.abandon else s
  | _ => s

/-! LAUNCH (R269). -/

/-- LAUNCH's push, or the wait at a full queue. -/
def launchOp (o : Opd) (s : State) : State :=
  let a := sval s.warp o.a
  let n := wgOf s.cur
  if s.wg.depth = 4 then s.raiseW 0x20 a
  else
    let s := s.flushReds s.cur
    match s.launchCheck s.wg.core s.wg.ctx a s.wg.prio with
    | .wait => s.stallOn .migrate
    | .bad c => s.raiseW (BitVec.ofNat 8 c) a
    | .ok e counter => if s.wg.full then s.block (.launch e a) o.len else (s.pushLaunch n e counter).retireEnd o
/-- The counter word of a blocked LAUNCH, translated when it is pushed: it can no longer fault, and a counter that no longer
translates is left as it is (log 21). -/
def SignalTo.place : SignalTo → Option Nat | .key k => some k | _ => none
/-- LAUNCH_PUSH (R269): a blocked LAUNCH pushes its saved entry once the queue has room. -/
def launchPush (k : Nat) (s : State) : State :=
  let w := s.warpAt k
  let g := s.wgAt (wgOf k)
  match w.run with
  | .launch e _ =>
    let s' := s.flushReds k
    let counter : SignalTo := if e.fp.counter = 0 then .lost none else s'.signalTo g.ctx e.fp.counter
    if g.place ≠ .resident ∨ g.full ∨ counter = .wait then s
    else (s'.pushLaunch (wgOf k) e counter.place).setWarpAt k w.unblock
  | _ => s

/-! YIELD, SLEEP, EXIT, NOP (R272). -/

def yieldOp (o : Opd) (s : State) : State := (s.setWarp { s.warp with yielded := true }).retireEnd o
def sleepOp (o : Opd) (s : State) : State :=
  let n := Nat.min (sval s.warp o.a).toNat (2 ^ 24)
  (s.setWarp { s.warp with sleep := if n = 0 then none else some (s.core.clk + n) }).retireEnd o
/-- SLEEP_EXPIRE (R272). -/
def sleepExpire (k : Nat) (s : State) : State :=
  let w := s.warpAt k
  match w.sleep with
  | some t => if t ≤ (s.coreAt (s.wgAt (wgOf k)).core).clk then s.setWarpAt k { w with sleep := none } else s
  | none => s
/-- EXIT: the warp ends; it counts as arrived in every cohort, and may complete a phase there. -/
def exitOp (_ : Opd) (s : State) : State :=
  let n := wgOf s.cur
  let s := s.setWarp { s.warp.squash with run := .exited, notice := none }
  ((List.range s.wg.fp.coh).foldl (fun s k => if (s.wg.cohort k).members.getLsbD (warpNo s.cur) then s.checkPhase n k else s)
    s).reportHalted n
def nopOp (o : Opd) (s : State) : State := s.retire o

/-- NOP (R272). -/
def execNop (f : Ops) (s : State) : Res := .next (nopOp (opd f) s)
/-- NOP, C form (R272, R16). -/
def execNopC (f : COps) (s : State) : Res := .next (nopOp (copdN f) s)
/-- EXIT (R272). -/
def execExit (f : Ops) (s : State) : Res := .next (exitOp (opd f) s)
/-- EXIT, C form (R272, R16). -/
def execExitC (f : COps) (s : State) : Res := .next (exitOp (copdN f) s)
/-- JMP (R261). -/
def execJmp (f : Ops) (s : State) : Res := .next (jmpOp (opd f) s)
/-- CALL (R261). -/
def execCall (f : Ops) (s : State) : Res := .next (callOp (opd f) s)
/-- CALLI (R261). -/
def execCalli (f : Ops) (s : State) : Res := .next (callOp (opd f) s)
/-- CALLI, C form (R261, R16). -/
def execCalliC (f : COps) (s : State) : Res := .next (callOp (copdS f) s)
/-- RET (R261). -/
def execRet (f : Ops) (s : State) : Res := .next (jmpOp (opd f) s)
/-- RET, C form (R261, R16). -/
def execRetC (f : COps) (s : State) : Res := .next (jmpOp (copdS f) s)
/-- BR (R261). -/
def execBr (f : Ops) (s : State) : Res := .next (brOp takenIf (opd f) s)
/-- BR_ANY (R261). -/
def execBrAny (f : Ops) (s : State) : Res := .next (brOp takenAny (opd f) s)
/-- BR_ALL (R261). -/
def execBrAll (f : Ops) (s : State) : Res := .next (brOp takenAll (opd f) s)
/-- BR_NONE (R261). -/
def execBrNone (f : Ops) (s : State) : Res := .next (brOp takenNone (opd f) s)
/-- BAR (R262). -/
def execBar (f : Ops) (cohort : BitVec 4) (s : State) : Res := .next (barOp cohort.toNat (opd f) s)
/-- AWAIT (R264). -/
def execAwait (f : Ops) (s : State) : Res := .next (awaitOp (opd f) s)
/-- BWAIT (R265). -/
def execBwait (f : Ops) (s : State) : Res := .next (bwaitOp (opd f) s)
/-- LAUNCH (R269). -/
def execLaunch (f : Ops) (s : State) : Res := .next (launchOp (opd f) s)
/-- JOIN (R266). -/
def execJoin (f : Ops) (s : State) : Res := .next (joinOp (opd f) s)
/-- YIELD (R272). -/
def execYield (f : Ops) (s : State) : Res := .next (yieldOp (opd f) s)
/-- YIELD, C form (R272, R16). -/
def execYieldC (f : COps) (s : State) : Res := .next (yieldOp (copdN f) s)
/-- SLEEP (R272). -/
def execSleep (f : Ops) (s : State) : Res := .next (sleepOp (opd f) s)
/-- SLEEP, C form (R272, R16). -/
def execSleepC (f : COps) (s : State) : Res := .next (sleepOp (copdS f) s)
/-- LAUNCH_PUSH (R269). -/
def execLaunchPush (k : Nat) (s : State) : Res := .next (launchPush k s)
/-- SLEEP_EXPIRE (R272). -/
def execSleepExpire (k : Nat) (s : State) : Res := .next (sleepExpire k s)
/-- WAIT_WAKE (R267). -/
def execWaitWake (k : Nat) (s : State) : Res := .next (waitWake k s)

end Sys2Proof.Machine
end

