-- ==== Sys2Proof/Machine/Av1.lean ====
section
/-! DEFINITION. A decode record's bitstream as the low-overhead OBU format (R76, R78, R80): its OBUs, operating point 0, the
frames they hold in decoding order, and where a decoder resumes. The format is PRESUMED from the AV1 specification that R76
cites; what decoding a frame gives beyond the bits read here is `Config.av1`'s, a free value (log 8). -/

namespace Sys2Proof.Machine

/-! Bits and numbers. -/

/-- The `n` bits of a byte string from bit `i`, most significant first; zeros past its end. -/
def bitsAt (b : List Byte) (i n : Nat) : Nat :=
  (List.range n).foldl (fun v k => 2 * v + (b.getD ((i + k) / 8) 0).toNat / 2 ^ (7 - (i + k) % 8) % 2) 0
/-- leb128: a value of at most `n` bytes, and the bytes after it. -/
def leb128 : (n : Nat) → List Byte → Option (Nat × List Byte)
  | 0, _ => none
  | _, [] => none
  | n + 1, b :: l =>
    if b.toNat < 128 then some (b.toNat, l) else (leb128 n l).map fun p => (b.toNat % 128 + 128 * p.1, p.2)
/-- The length of a uvlc value at bit `i`: `n` bounds the zeros before its first 1. -/
def uvlcBits (b : List Byte) : (n i : Nat) → Nat
  | 0, _ => 1
  | n + 1, i => if bitsAt b i 1 = 1 then 1 else 2 + uvlcBits b n (i + 1)

/-! OBUs. -/

/-- An OBU: its type, its layer ids where it has an extension, its payload, and all its bytes. -/
structure Obu where
  type : Nat
  ids : Option (Nat × Nat)
  body : List Byte
  raw : List Byte
deriving DecidableEq, Repr
/-- The first OBU of a byte string and the rest; none where the string ends first, or where the OBU gives no size, as every OBU
of the low-overhead format does: the bitstream is taken to end there (log 8). -/
def nextObu : List Byte → Option (Obu × List Byte)
  | [] => none
  | h :: l =>
    let ext := bitsAt [h] 5 1 = 1
    match leb128 8 (if ext then l.drop 1 else l) with
    | none => none
    | some (n, rest) =>
      if bitsAt [h] 6 1 = 0 ∨ rest.length < n then none
      else some ({ type := bitsAt [h] 1 4, ids := if ext then some (bitsAt l 0 3, bitsAt l 3 2) else none
                   body := rest.take n, raw := (h :: l).take ((h :: l).length - (rest.length - n)) }, rest.drop n)
/-- The OBUs of a bitstream: `fuel` is its length. -/
def splitObus : (fuel : Nat) → List Byte → List Obu
  | 0, _ => []
  | fuel + 1, b => match nextObu b with
    | none => []
    | some (o, rest) => o :: splitObus fuel rest
/-- The layers of operating point 0, from a sequence header's payload: 0, all of them, for a reduced still picture's. -/
def opPoint (seq : List Byte) : Nat :=
  if bitsAt seq 4 1 = 1 then 0
  else
    let i := if bitsAt seq 5 1 = 0 then 6
      else
        let u := 71 + (if bitsAt seq 70 1 = 1 then uvlcBits seq 32 71 else 0)
        u + 1 + (if bitsAt seq u 1 = 1 then 47 else 0)
    bitsAt seq (i + 6) 12
/-- An OBU that decoding uses: metadata, padding and reserved OBUs are ignored, and those outside operating point 0 dropped. -/
def Obu.decoded (seq : List Byte) (o : Obu) : Bool :=
  let idc := opPoint seq
  [1, 2, 3, 4, 6, 7, 8].contains o.type && match o.ids with
  | none => true
  | some (t, l) => o.type ≤ 2 || idc = 0 || idc.testBit t && idc.testBit (l + 8)

/-! Frames. -/

/-- What gives an output frame: a frame of the bitstream, a tile list, or nothing: the `n`-th output past its end. -/
inductive Av1Kind
  | coded
  | tileList
  | ended (n : Nat)
deriving DecidableEq, Repr
/-- A frame: the OBUs decoded up to its end, its sequence header's and its own header's payload, whether it is the first of a
record without CONT, and the serial of the references it decodes under. -/
structure Av1 where
  kind : Av1Kind
  obus : List (List Byte)
  seq : List Byte
  head : List Byte
  fresh : Bool
  serial : Nat
deriving DecidableEq, Repr
/-- A free value of the frame, and one of its sequence, by number. -/
def Av1.ask (a : Av1) (n : Nat) : Nat := Config.av1 a.obus a.serial n
def Av1.askSeq (a : Av1) (n : Nat) : Nat := Config.av1 [[], a.seq] 0 n
/-- A reduced still picture: its header starts with none of the next three fields. -/
def Av1.reduced (a : Av1) : Bool := bitsAt a.seq 4 1 = 1
/-- show_existing_frame; nothing says what an exhausted frame's is (log 8). -/
def Av1.existing (a : Av1) : Bool := match a.kind with
  | .coded => !a.reduced && bitsAt a.head 0 1 = 1
  | .tileList => false
  | .ended n => a.ask (2 ^ 40 + 2 * n) % 2 = 1
/-- FT (R80): the frame_type of its header; that of the frame shown again, of a tile list and of an exhausted frame are free
values (log 8). -/
def Av1.type (a : Av1) : Nat := match a.kind with
  | .coded => if a.existing then a.ask 1 % 4 else if a.reduced then 0 else bitsAt a.head 1 2
  | .tileList => a.ask 1 % 4
  | .ended n => a.ask (2 ^ 40 + 2 * n + 1) % 4
/-- It is an output frame (R78). -/
def Av1.shown (a : Av1) : Bool :=
  match a.kind with | .coded => a.existing || a.reduced || bitsAt a.head 3 1 = 1 | _ => true
/-- The slots it refreshes: all eight for a shown key frame (R81). -/
def Av1.refreshes (a : Av1) : BitVec 8 := match a.kind with
  | .coded => if a.type = 0 && a.shown then 0xFF else if a.existing then 0 else BitVec.ofNat 8 (a.ask 3)
  | _ => 0
/-- The slots it reads: the one it shows again; none for another shown key frame. -/
def Av1.reads (a : Av1) : BitVec 8 := match a.kind with
  | .coded => if a.existing then 1#8 <<< bitsAt a.head 1 3 else if a.type = 0 && a.shown then 0 else BitVec.ofNat 8 (a.ask 4)
  | _ => 0
def Av1.ten (a : Av1) : Bool := a.askSeq 5 % 2 = 1
def Av1.mono (a : Av1) : Bool := a.askSeq 6 % 2 = 1
/-- Its size, of 16 bits each way. -/
def Av1.width (a : Av1) : Nat := a.ask 7 % 65536 + 1
def Av1.height (a : Av1) : Nat := a.ask 8 % 65536 + 1
/-- seq_profile. -/
def Av1.profile (a : Av1) : Nat := bitsAt a.seq 0 3
/-- Bytes of working area that its sequence needs; 288 MiB covers every sequence (R318). -/
def Av1.need (a : Av1) : Nat := a.askSeq 12 % (288 * 2 ^ 20) + 1
/-- It lies outside the limits of R76: no tile list, and by its sequence header profile 0, frames up to 4096 × 2304, and a working
area that its sequence needs. -/
def Av1.unsupported (a : Av1) (area : Nat) : Bool :=
  a.kind = .tileList || !a.seq.isEmpty && (a.profile ≠ 0 || 4096 < a.width || 2304 < a.height || area < a.need)
/-- It violates the AV1 specification (R80): it has no sequence header, it is the first of a record without CONT and no key
frame (R77), or another violation, a free value. -/
def Av1.defect (a : Av1) : Bool := a.seq.isEmpty || a.fresh && (a.type ≠ 0 || a.existing) || a.ask 0 % 2 = 1
/-- The code its own data earns (R80): 4 exhausted, 3 unsupported, 1 bitstream error, 0 good. That code 3 comes before code 1,
which no rule places, is the model's choice (log 8). -/
def Av1.own (a : Av1) (area : Nat) : Nat := match a.kind with
  | .ended _ => 4
  | _ => if a.unsupported area then 3 else if a.defect then 1 else 0
/-- CODE (R80, R81): its own data's; else 2 where it reads a marked slot. -/
def Av1.code (a : Av1) (marks : BitVec 8) (area : Nat) : Nat :=
  if a.own area ≠ 0 then a.own area else if a.reads &&& marks ≠ 0 then 2 else 0
/-- Sample (x, y) of plane 0 to 2, within its bit depth, before film grain (R76). -/
def Av1.sample (a : Av1) (plane x y : Nat) : Nat := a.ask (16 + 3 * (x + 4096 * y) + plane) % (if a.ten then 1024 else 256)

/-! Decoding in order. -/

/-- A bitstream decoded up to some OBU: the sequence header in force, the OBUs decoded, the frame whose OBUs are still coming,
whether OBUs are skipped after an error, whether the next frame is the first, the frames not shown since the last output
frame, and the output frames, each with the frames not shown before it. -/
structure Av1Scan where
  seq : List Byte
  fresh : Bool
  obus : List (List Byte) := []
  cur : Option Av1 := none
  skip : Bool := false
  hidden : List Av1 := []
  out : List (List Av1 × Av1) := []
deriving DecidableEq, Repr
/-- The open frame is complete: it is put out if it is shown (R78), and after a bitstream error what follows it is skipped
(R80). -/
def Av1Scan.close (area : Nat) (c : Av1Scan) : Av1Scan := match c.cur with
  | none => c
  | some a =>
    let a := { a with obus := c.obus }
    let c := { c with cur := none, skip := a.own area = 1 }
    if a.shown then { c with hidden := [], out := c.out ++ [(c.hidden, a)] } else { c with hidden := c.hidden ++ [a] }
/-- One more OBU. A temporal delimiter, type 2, begins a temporal unit, where decoding resumes (R80); tile groups, type 4, and
repeated headers, type 7, belong to the frame before them. -/
def Av1Scan.obu (area serial : Nat) (c : Av1Scan) (o : Obu) : Av1Scan :=
  if !o.decoded c.seq then c
  else
    let c := if o.type = 4 ∨ o.type = 7 then c else c.close area
    if o.type = 2 then { c with skip := false, obus := c.obus ++ [o.raw] }
    else if c.skip then c
    else
      let frame := fun k : Av1Kind => { kind := k, obus := [], seq := c.seq, head := o.body, fresh := c.fresh, serial := serial : Av1 }
      let c := { c with obus := c.obus ++ [o.raw] }
      match o.type with
      | 1 => { c with seq := o.body }
      | 3 | 6 => { c with cur := some (frame .coded), fresh := false }
      | 8 => { c with cur := some (frame .tileList), fresh := false }
      | _ => c
/-- A whole bitstream, from the sequence header in force before it; `fresh` without CONT. -/
def scanAv1 (area serial : Nat) (seq : List Byte) (fresh : Bool) (b : List Byte) : Av1Scan :=
  ((splitObus b.length b).foldl (Av1Scan.obu area serial) { seq := seq, fresh := fresh }).close area
/-- Output frame `f`, and the frames not shown that are decoded before it (R78); past the last one the bitstream is exhausted
(R80). -/
def Av1Scan.frame (c : Av1Scan) (serial f : Nat) : List Av1 × Av1 :=
  c.out.getD f (if f = c.out.length then c.hidden else [],
    { kind := .ended (f - c.out.length), obus := c.obus, seq := c.seq, head := [], fresh := false, serial := serial })

end Sys2Proof.Machine
end

