-- ==== Sys2Proof/Machine/Decoder.lean ====
section
/-! DEFINITION. The Vermilion decoders (R76 to R81, R92, R93), over the frames that `Machine/Av1.lean` finds in a bitstream. -/

namespace Sys2Proof.Machine

/-! The record (R77). -/

/-- Bytes of a window (R79). -/
def patchBytes (bfp upsampled : Bool) : Nat :=
  match bfp, upsampled with | false, false => 384 | false, true => 768 | true, false => 480 | true, true => 960
def DecRec.window (r : DecRec) : Nat := r.wp * r.hp * patchBytes r.bfp r.upsampled
/-- A record's fields, and whether the fields that no `DecRec` holds keep their limits. -/
def decRecord (wg warp : Nat) (b : List Byte) : DecRec × Bool :=
  let f := fun i n => leNat ((b.drop i).take n)
  let flags := f 15 1
  ({ wg := wg, warp := warp, bsa := BitVec.ofNat 64 (f 0 8), bsl := f 8 4, frames := f 12 2, bfp := f 14 1 = 1
     upsampled := flags % 2 = 1, cont := flags / 2 % 2 = 1, sctx := flags / 4 % 4, x0 := f 16 2, y0 := f 18 2
     wp := f 20 2, hp := f 22 2, dst := f 24 4, fpitch := f 28 4, arv := f 32 4, sta := BitVec.ofNat 64 (f 40 8), xlat := [] },
   f 14 1 < 2 && flags < 16 && f 36 4 = 0 && f 48 8 = 0 && f 56 8 = 0)
/-- The limits of R77, BSL's 64 units among them. -/
def DecRec.ok (r : DecRec) : Bool :=
  canonical r.bsa && 1 ≤ r.bsl && (⟨r.bsa, r.bsl, [.engRead], 4⟩ : GRange).units ≤ 64 && 1 ≤ r.frames && r.frames ≤ 256
    && 1 ≤ r.wp && 1 ≤ r.hp && r.dst % 16 = 0 && r.fpitch % 16 = 0 && r.window ≤ r.fpitch && r.sta.toNat % 4 = 0
def DecRec.locs (r : DecRec) : List (Nat × Nat) := [(r.dst, (r.frames - 1) * r.fpitch + r.window)]
/-- The global ranges. They may lie in peer pages: R31's table names the copy engines alone, R37 admits every engine kind; the
model admits them here, and for SET.IMPORT and SET.EXPORT, by its own choice (log 30). Check 5 takes the bitstream before the
status area, which is the model's choice too (log 16). -/
def DecRec.ranges (r : DecRec) : List GRange :=
  [⟨r.bsa, r.bsl, [.engRead], 4⟩, ⟨r.sta, 4 * r.frames, [.engWrite], 4⟩]

def Die.decoder (d : Die) (i : Nat) : Decoder := Tab.get {} i d.decoders
def State.decoderAt (s : State) (die i : Nat) : Decoder := (s.dieAt die).decoder i
def State.setDecoderAt (die i : Nat) (d : Decoder) (s : State) : State :=
  s.setDieAt die { s.dieAt die with decoders := Tab.put {} i d (s.dieAt die).decoders }
/-- Records held, the active one included (R93). -/
def Decoder.held (d : Decoder) : Nat := d.queue.length + (if d.active.isSome then 1 else 0)

/-! DEC.SUB and DEC.STAT (R92, R93). -/

/-- The record read as a load at this point would read it (R64, R215), and validated in R63's order; then accepted, or busy
with no other effect. `bad3` is the address of a failing operand. -/
def decSubRecord (i : Nat) (a : DWord) (bad3 : Option Nat) (x : List Xlat) (o : Opd) (s : State) : State :=
  let s := s.flushOver s.cur ((List.range 64).map fun j => (xkey x (a.toNat + j), 1))
  let (b, s) := s.engRead x a.toNat 64
  if anyPoison b then s.refuse 0x38 a.toNat
  else
    let (r, z) := decRecord (wgOf s.cur) (warpNo s.cur) (b.map Prod.fst)
    let die := s.wg.core / 64
    asyncChecks r.arv r.locs (bad3.or (if z && r.ok then none else some a.toNat)) none r.ranges (fun x s =>
      let d := s.decoderAt die i
      if 16 ≤ d.held then s.done o (writeS s.warp o.d 1)
      else
        let s := ({ s.flushReds s.cur with nextCmd := s.nextCmd + 1 } : State).setDecoderAt die i
          { d with queue := d.queue ++ [{ r with xlat := x, id := s.nextCmd }] }
        s.done o (writeS s.warp o.d 0)) s
/-- DEC.SUB's own operands (R367): the decoder's number, and the record's address. Of several failures of check 3 the number
is recorded before the address, and both before the record: no rule gives an order, and this is the model's choice (log 16). -/
def decSubBad (i a : Nat) : Option Nat := if 3 < i then some i else if a % 64 ≠ 0 then some a else none
def decSubOp (o : Opd) (s : State) : State :=
  let a := sval s.warp o.a
  let i := (sval s.warp o.b).toNat
  if s.warp.exec = 0 then s.retire o
  else match s.checkRange s.wg.core s.wg.ctx ⟨a, 64, [.engRead], 4⟩ with
  | .wait => s.stallOn .migrate
  | .bad b => s.refuse 0x14 ((decSubBad i a.toNat).getD b)
  | .ok x => decSubRecord i a (decSubBad i a.toNat) x o s
/-- The status word. -/
def Decoder.status (d : Decoder) : DWord :=
  BitVec.ofNat 64 (d.held + (if d.active.isSome then 32 else 0)
    + (List.range 4).foldl (fun n c => n + (Tab.get (0 : BitVec 8) c d.marks).toNat * 2 ^ (16 + 8 * c)) 0)
def decStatOp (o : Opd) (s : State) : State :=
  let i := (sval s.warp o.a).toNat
  if s.warp.exec = 0 then s.retire o
  else if 3 < i then s.refuse 0x14 i
  else s.done o (writeS s.warp o.d (s.decoderAt (s.wg.core / 64) i).status)

/-! A frame's window. -/

/-- A byte that its decoding reads is poisoned: which bytes it reads is another value of `Config.av1`. -/
def Av1.taints (a : Av1) (st : List PByte) : Bool := anyPoison ((st.drop (a.ask 9)).take (a.ask 10))
/-- A plane's sample, or none where the element is zero: outside the frame, or chroma of monochrome content (R79). -/
def Av1.at (a : Av1) (plane x y : Nat) : Option Nat :=
  let h := fun n => if plane = 0 then n else (n + 1) / 2
  if x < h a.width ∧ y < h a.height ∧ (plane = 0 ∨ !a.mono) then some (a.sample plane x y) else none
/-- The element of luma place (x, y) in an upsampled plane: the chroma sample that covers it. -/
def Av1.upAt (a : Av1) (plane x y : Nat) : Option Nat :=
  if plane = 0 then a.at 0 x y else if x < a.width ∧ y < a.height then a.at plane (x / 2) (y / 2) else none
/-- The elements of one plane of a patch, row-major. -/
def Av1.plane (a : Av1) (up : Bool) (px py plane : Nat) : List (Option Nat) :=
  let n := if plane = 0 || up then 16 else 8
  (List.range (n * n)).map fun i => (if up then a.upAt else a.at) plane (n * px + i % n) (n * py + i / n)
/-- UINT8 elements (R79). -/
def elemByte (ten : Bool) : Option Nat → Byte
  | none => 0
  | some v => if ten then BitVec.ofNat 8 (Nat.min 255 (rneUnits v (-2) 0).toNat) else BitVec.ofNat 8 v
/-- The value of a BFP element; none for a zero element, which R51 does not round. -/
def elemExact (ten : Bool) : Option Nat → Option Dyadic2
  | none => none
  | some v => some (if ten then ((v : Int) - 512, -2) else ((v : Int) - 128, 0))
/-- Canonical blocks of m = 8 from elements in order, 32 a block (R50, R51): a zero element has mantissa 0 and NZ 0, and X is 0 for
a block of zero elements (R79). That the error of R51 is carried past the zero elements of a block, unchanged, to the next one
inside the frame is the model's choice (log 18). -/
def bfpBlocks (l : List (Option Dyadic2)) : List Byte :=
  (List.range (l.length / 32)).flatMap fun i =>
    let (x, q) := quantise 8 ((l.drop (32 * i)).take 32)
    blockOf 8 x (q.map fun v => v.getD 0)
/-- A frame's window (R79), or its zero elements (R80). -/
def windowBytes (r : DecRec) (a : Av1) (good : Bool) : List Byte :=
  (List.range (r.wp * r.hp)).flatMap fun i => (List.range 3).flatMap fun plane =>
    let e := a.plane r.upsampled (r.x0 + i % r.wp) (r.y0 + i / r.wp) plane
    let e := if good then e else e.map fun _ => none
    if r.bfp then bfpBlocks (e.map (elemExact a.ten)) else e.map (elemByte a.ten)

/-- The marks after a frame that refreshes these slots (R81). -/
def marksAfter (refreshes : BitVec 8) (code : Nat) (m : BitVec 8) : BitVec 8 :=
  if code = 0 then m &&& ~~~refreshes else if code ≤ 3 then m ||| refreshes else m
/-- The marks after frames decoded in order. -/
def marksThrough (area : Nat) (l : List Av1) (m : BitVec 8) : BitVec 8 :=
  l.foldl (fun m h => marksAfter h.refreshes (h.code m area) m) m
/-- The status word (R80). -/
def statusWord (a : Av1) (code : Nat) : Nat := code + 16 * a.type + (if a.existing then 64 else 0)

/-- The UNIT number of a decoder (R301). -/
def decoderUnit (die i : Nat) : BitVec 16 := BitVec.ofNat 16 (2 * 2 ^ 12 + 2 ^ 8 * die + i)
/-- DECODER_RECORD_START (R77): a record without CONT starts its stream context afresh. -/
def recordStart (die i : Nat) (s : State) : State :=
  let d := s.decoderAt die i
  match d.active, d.queue with
  | none, r :: l =>
    if s.isFrozen die (decoderUnit die i) then s
    else
      let marks := if r.cont then d.marks else Tab.put 0 r.sctx 0 d.marks
      ({ s with free := s.free + 1 }.capture (s.wgAt r.wg).ctx (16 + r.bsl)).setDecoderAt die i
        { d with queue := l, active := some (r, 0), marks := marks, serial := Tab.put 0 r.sctx s.free d.serial }
  | _, _ => s
/-- DECODER_RECORD_START (R77). -/
def execDecoderRecordStart (die dec : Nat) (s : State) : Res := .next (recordStart die dec s)
/-- The frames in a record's bitstream. A record with CONT starts from the sequence header that its stream context's last record
ended in (log 8). -/
def Decoder.scan (d : Decoder) (r : DecRec) (b : List Byte) : Av1Scan :=
  scanAv1 (Tab.get (0, 0) r.sctx d.areas).2 (Tab.get 0 r.sctx d.serial) (if r.cont then Tab.get [] r.sctx d.seqs else [])
    (!r.cont) b
/-- The marks of a record's stream context before output frame `f`, and the frame. -/
def Decoder.nextFrame (d : Decoder) (r : DecRec) (f : Nat) (b : List Byte) : BitVec 8 × Av1 :=
  let (hidden, a) := (d.scan r b).frame (Tab.get 0 r.sctx d.serial) f
  (marksThrough (Tab.get (0, 0) r.sctx d.areas).2 hidden (Tab.get 0 r.sctx d.marks), a)
/-- DECODER_OUTPUT_FRAME (R78): the window, then the status word, then the arrival. -/
def outputFrame (die i : Nat) (s : State) : State :=
  let d := s.decoderAt die i
  match d.active with
  | none => s
  | some (r, f) =>
    if s.isFrozen die (decoderUnit die i) then s
    else
      let g := s.wgAt r.wg
      let (st, s) := s.engRead r.xlat r.bsa.toNat r.bsl
      let (marks, a) := d.nextFrame r f (st.map Prod.fst)
      let code := a.code marks (Tab.get (0, 0) r.sctx d.areas).2
      let s := s.locWrite g (r.dst + f * r.fpitch) (windowBytes r a (code = 0))
      let s := s.engWrite r.xlat (r.sta.toNat + 4 * f) ((leBytes 4 (statusWord a code)).map fun b => (b, false))
      let s := s.arrive g.core (g.base + r.arv) r.window (poisonFlag (a.taints st) ||| if code = 0 then 0 else 1)
      let last := r.frames ≤ f + 1
      s.setDecoderAt die i { d with active := if last then none else some (r, f + 1)
                                    marks := Tab.put 0 r.sctx (marksAfter a.refreshes code marks) d.marks
                                    seqs := if last then Tab.put [] r.sctx a.seq d.seqs else d.seqs }
/-- DECODER_OUTPUT_FRAME (R78). -/
def execDecoderOutputFrame (die dec : Nat) (s : State) : Res := .next (outputFrame die dec s)

/-- DEC_SUB (R92). -/
def execDecSub (f : Ops) (s : State) : Res := .next (decSubOp (opd f) s)
/-- DEC_STAT (R93). -/
def execDecStat (f : Ops) (s : State) : Res := .next (decStatOp (opd f) s)

end Sys2Proof.Machine
end

