-- ==== Sys2Proof/Machine/Sets.lean ====
section
/-! DEFINITION. The values of sets (R120 to R139): panes and their representations, HASHED tables, the conversion and
layout rules, what a bulk command does to values, and what everything costs. Points that the rules leave to be inferred
are in log 20. -/

namespace Sys2Proof.Machine

/-- ceil(a / b). -/
def cdiv (a b : Nat) : Nat := (a + b - 1) / b
/-- ceil(log2 x) for x of 1 or more. -/
def clog2 (x : Nat) : Nat := if x ≤ 1 then 0 else (x - 1).log2 + 1
/-- A key put in its place of a rising list. -/
def insKey (k : Nat) : List Nat → List Nat
  | [] => [k]
  | x :: r => if k < x then k :: x :: r else if k = x then x :: r else x :: insKey k r
def sortKeys (l : List Nat) : List Nat := l.foldl (fun acc k => insKey k acc) []

/-! Panes (R124, R125). -/

/-- Maximal runs of consecutive members of a rising list. -/
def runsOf : List Nat → Nat
  | [] => 0
  | [_] => 1
  | a :: b :: r => runsOf (b :: r) + if b = a + 1 then 0 else 1
/-- Keys of a pane: P. -/
def paneP (u : Nat) : Nat := if u ≤ 4096 then (u + 63) / 64 * 64 else 4096
/-- Bytes of a body. -/
def repSize (p : Nat) (rep : Rep) (n r : Nat) : Nat :=
  match rep with | .list => 2 * n | .map => p / 8 | .runs => 4 * r
def Pane.n (x : Pane) : Nat := x.keys.length
def Pane.runs (x : Pane) : Nat := runsOf x.keys
def Pane.size (p : Nat) (x : Pane) : Nat := repSize p x.rep x.n x.runs
/-- The smallest representation; ties MAP, RUNS, LIST. -/
def target (p n r : Nat) : Rep :=
  if p / 8 ≤ 4 * r ∧ p / 8 ≤ 2 * n then .map else if 4 * r ≤ 2 * n then .runs else .list
def Pane.target (p : Nat) (x : Pane) : Rep := Machine.target p x.n x.runs
def Pane.targetSize (p : Nat) (x : Pane) : Nat := repSize p (x.target p) x.n x.runs
/-- Clocks of a test in a pane (R137). -/
def Pane.testClocks (x : Pane) : Nat :=
  match x.rep with | .list => clog2 (x.n + 1) | .map => 1 | .runs => clog2 (x.runs + 1)
/-- Clocks of a change. -/
def Pane.changeClocks (x : Pane) : Nat :=
  match x.rep with | .list => 1 + cdiv (2 * x.n) 64 | .map => 1 | .runs => 1 + cdiv (4 * x.runs) 64
/-- Whether the pane converts after a per-lane command, and to what (R125). -/
def Pane.convertsTo (u : Nat) (x : Pane) : Option Rep :=
  let p := paneP u
  if u ≤ 4096 ∧ x.n = 0 then (if x.rep = .list then none else some .list)
  else
    let t := x.target p
    if t ≠ x.rep ∧ x.targetSize p + Nat.max 2 (x.size p / 8) ≤ x.size p then some t else none

/-! HASHED tables (R126, R127). -/

/-- The least power of two at or above `n`, within `fuel` doublings of `c`. -/
def pow2From (n : Nat) : (fuel c : Nat) → Nat
  | 0, c => c
  | f + 1, c => if n ≤ c then c else pow2From n f (2 * c)
/-- C(n). -/
def capOf (n : Nat) : Nat := pow2From (2 * n) 40 16
/-- h(k) in a table of `c` slots. -/
def hashPos (c k : Nat) : Nat := k * 0x9E3779B1 % 2 ^ 32 / 2 ^ (32 - c.log2)
abbrev emptySlot : Word := 0xFFFFFFFF
def slotAt (t : Tab Word) (i : Nat) : Word := Tab.get emptySlot i t
def setSlot (t : Tab Word) (i : Nat) (k : Word) : Tab Word := Tab.put emptySlot i k t
/-- A lookup from position `i`: where it ends, whether it found the key, and the slots examined. -/
def probe (c k : Nat) (t : Tab Word) : (fuel i n : Nat) → Nat × Bool × Nat
  | 0, i, n => (i, false, n)
  | f + 1, i, n =>
    let x := slotAt t i
    if x.toNat = k then (i, true, n + 1) else if x = emptySlot then (i, false, n + 1) else probe c k t f ((i + 1) % c) (n + 1)
def lookupSlot (c k : Nat) (t : Tab Word) : Nat × Bool × Nat := probe c k t c (hashPos c k) 0
/-- An insert of a key that is absent. -/
def hashPut (c : Nat) (t : Tab Word) (k : Nat) : Tab Word := setSlot t (lookupSlot c k t).1 (BitVec.ofNat 32 k)
/-- Backward-shift deletion from the emptied slot `hole`, looking at `i`; the entries moved. -/
def shiftBack (c : Nat) : (fuel hole i moved : Nat) → Tab Word → Tab Word × Nat
  | 0, _, _, n, t => (t, n)
  | f + 1, hole, i, n, t =>
    let x := slotAt t i
    if x = emptySlot then (t, n)
    else
      let h := hashPos c x.toNat
      if (hole + c - h) % c < (i + c - h) % c then
        shiftBack c f i ((i + 1) % c) (n + 1) (setSlot (setSlot t hole x) i emptySlot)
      else shiftBack c f hole ((i + 1) % c) n t
/-- Keys in ascending slot order put into an empty table of `c` slots. -/
def rebuild (c : Nat) (t : Tab Word) : Tab Word := (t.map fun p => p.2.toNat).foldl (hashPut c) []
/-- A table of keys applied in ascending order: that a bulk result and a PANED set which becomes HASHED take their keys so, and
that a copy of a HASHED set keeps its source's table as it is, is the model's choice (log 20). -/
def tableOfKeys (keys : List Nat) : Nat × Tab Word × Bool :=
  let c := capOf keys.length
  (c, (keys.filter (· < 2 ^ 32 - 1)).foldl (hashPut c) [], keys.contains (2 ^ 32 - 1))

/-! Values. -/

/-- Members in ascending order. -/
def SetVal.members (v : SetVal) : List Nat :=
  match v.layout with
  | .hashed => sortKeys (v.slots.map fun p => p.2.toNat) ++ if v.ff then [2 ^ 32 - 1] else []
  | _ => v.panes.flatMap fun x => x.keys.map fun k => 4096 * x.no + k
def SetVal.card (v : SetVal) : Nat :=
  match v.layout with
  | .hashed => v.slots.length + if v.ff then 1 else 0
  | _ => (v.panes.map Pane.n).sum
/-- d. -/
def SetVal.dir (v : SetVal) : Nat := if v.layout = .paned then v.panes.length else 0
/-- An empty set (R123, R144). -/
def SetVal.empty (u : Nat) : SetVal :=
  if u ≤ 4096 then { u := u, layout := .direct, panes := [⟨0, .list, []⟩] } else { u := u, layout := .paned }
/-- Bytes of a pane with its header. -/
def SetVal.paneBytes (v : SetVal) (x : Pane) : Nat := 8 + x.size (paneP v.u)
/-- Granules of a set's items, its header apart (R133). -/
def SetVal.granules (v : SetVal) : Nat :=
  match v.layout with
  | .hashed => cdiv (4 * v.cap) 64
  | _ => cdiv (8 * v.dir) 64 + (v.panes.map fun x => cdiv (v.paneBytes x) 64).sum
/-- The bytes of a directory and of panes as they are stored. -/
def SetVal.storedBytes (v : SetVal) (l : List Pane) : Nat := 8 * v.dir + (l.map v.paneBytes).sum
/-- size(PANED) of R128 for panes of 4,096 keys, each in its target. -/
def sizePaned (l : List Pane) : Nat := 8 * l.length + (l.map fun x => 8 + x.targetSize 4096).sum
def sizeHashed (n : Nat) : Nat := 4 * capOf n
/-- R128's two tests. -/
def becomesHashed (l : List Pane) (n : Nat) : Bool :=
  sizeHashed n + Nat.max 64 (sizePaned l / 8) ≤ sizePaned l
def becomesPaned (l : List Pane) (n : Nat) : Bool :=
  sizePaned l + Nat.max 64 (sizeHashed n / 8) ≤ sizeHashed n

/-- Rising keys split into panes, each in the representation that `rep` gives. -/
def panesOf (rep : Nat → List Nat → Rep) (keys : List Nat) : List Pane :=
  ((keys.map (· / 4096)).dedup).map fun no =>
    let ks := (keys.filter fun k => k / 4096 = no).map (· % 4096)
    ⟨no, rep no ks, ks⟩
def targetRep (p : Nat) (_ : Nat) (ks : List Nat) : Rep := target p ks.length (runsOf ks)
/-- A result written directly (R125, R128): panes in `rep`, an empty DIRECT result LIST, a PANED result in the layout of the
first test. `old` is the table that a copy keeps. -/
def SetVal.written (u : Nat) (rep : Nat → List Nat → Rep) (keys : List Nat) (old : Option SetVal) : SetVal :=
  if u ≤ 4096 then
    { u := u, layout := .direct, panes := [⟨0, if keys.isEmpty then .list else rep 0 keys, keys⟩] }
  else
    let l := panesOf rep keys
    if becomesHashed l keys.length then
      match old with
      | some v => v
      | none => let (c, t, ff) := tableOfKeys keys; { u := u, layout := .hashed, cap := c, slots := t, ff := ff }
    else { u := u, layout := .paned, panes := l }
/-- The pane of a number, an absent one being an empty LIST. -/
def SetVal.pane (v : SetVal) (no : Nat) : Pane := (v.panes.find? (·.no = no)).getD ⟨no, .list, []⟩
/-- A pane put in its place of the directory. -/
def insPane (x : Pane) : List Pane → List Pane
  | [] => [x]
  | y :: r => if x.no < y.no then x :: y :: r else if x.no = y.no then x :: r else y :: insPane x r

/-! Per-lane mutations (R127, R137). What one key does: whether it changed the set, the value after it, the clocks, and the
rebuilds. -/

/-- The effect of one key. -/
structure KeyStep where
  hit : Bool
  val : SetVal
  clocks : Nat
  rehash : Nat := 0
deriving DecidableEq, Repr

/-- An insert of key `k` in a table: the table after it and the slots its lookup examines. The flag's key has L = 1. -/
def hashPlace (v : SetVal) (k : Nat) : SetVal × Nat :=
  if k = 2 ^ 32 - 1 then ({ v with ff := true }, 1)
  else ({ v with slots := hashPut v.cap v.slots k }, (lookupSlot v.cap k v.slots).2.2)
/-- An insert in a HASHED set; one that would make 2n > C first doubles C, and its lookup is then in the doubled table
(log 20). -/
def hashIns (v : SetVal) (k : Nat) : KeyStep :=
  let (found, l) := if k = 2 ^ 32 - 1 then (v.ff, 1) else (lookupSlot v.cap k v.slots).2
  if found then ⟨true, v, l, 0⟩
  else if v.cap < 2 * (v.card + 1) then
    let c := 2 * v.cap
    let (v', l) := hashPlace { v with cap := c, slots := rebuild c v.slots } k
    ⟨false, v', l + cdiv (4 * v.cap + 4 * c) 64, 1⟩
  else let (v', l) := hashPlace v k; ⟨false, v', l, 0⟩
def hashDel (v : SetVal) (k : Nat) : KeyStep :=
  if k = 2 ^ 32 - 1 then ⟨v.ff, { v with ff := false }, 1, 0⟩
  else
    let (i, found, l) := lookupSlot v.cap k v.slots
    if !found then ⟨false, v, l, 0⟩
    else
      let (t, n) := shiftBack v.cap v.cap i ((i + 1) % v.cap) 0 (setSlot v.slots i emptySlot)
      ⟨true, { v with slots := t }, l + n, 0⟩
/-- Clocks of finding a pane. -/
def SetVal.searchClocks (v : SetVal) : Nat := if v.layout = .paned then clog2 (v.dir + 1) else 0
/-- An insert or a delete in a DIRECT or PANED set; a PANED set's pane that loses its last member leaves the directory
(R124). -/
def paneStep (ins : Bool) (v : SetVal) (k : Nat) : KeyStep :=
  let x := v.pane (k / 4096)
  let hit := x.keys.contains (k % 4096)
  let test := v.searchClocks + x.testClocks
  if hit = ins then ⟨hit, v, test, 0⟩
  else
    let x' := { x with keys := if ins then insKey (k % 4096) x.keys else x.keys.filter (· ≠ k % 4096) }
    let gone : Bool := x'.keys.isEmpty && v.layout = .paned
    let l := if gone then v.panes.filter (fun y => y.no ≠ x.no) else insPane x' v.panes
    ⟨hit, { v with panes := l }, test + x.changeClocks, 0⟩
def keyStep (ins : Bool) (v : SetVal) (k : Nat) : KeyStep :=
  if v.layout = .hashed then (if ins then hashIns v k else hashDel v k) else paneStep ins v k
/-- Whether a key is a member, and the clocks of the test. -/
def keyTest (v : SetVal) (k : Nat) : Bool × Nat :=
  if v.layout = .hashed then
    (if k = 2 ^ 32 - 1 then (v.ff, 1) else let r := lookupSlot v.cap k v.slots; (r.2.1, r.2.2))
  else
    let x := v.pane (k / 4096)
    (x.keys.contains (k % 4096), v.searchClocks + x.testClocks)
/-- Clocks of SET.RANK, SET.SEL and SET.NEXT (R137): the pane of a DIRECT set, else that of key `k`, none without a key. That `k`
is the answer of SET.SEL and SET.NEXT, and that they count no pane where no member answers, is the model's choice (log 20). -/
def orderClocks (v : SetVal) (k : Option Nat) : Nat :=
  if v.layout = .hashed then cdiv v.cap 16
  else if v.layout = .direct then (v.pane 0).testClocks
  else cdiv v.dir 8 + match k with | some k => (v.pane (k / 4096)).testClocks | none => 0

/-! Costs (R138). -/

/-- Additions to cost counters. -/
abbrev Charge := List (Nat × Nat)
def addCost (t : Tab DWord) (c : Charge) : Tab DWord :=
  c.foldl (fun t p => Tab.put 0 p.1 (Tab.get 0 p.1 t + BitVec.ofNat 64 p.2) t) t
/-- The counter of a conversion. -/
def cvCounter : Rep → Rep → Nat
  | .list, .map => 4 | .map, .list => 5 | .map, .runs => 6 | .runs, .map => 7 | .list, .runs => 8 | _, _ => 9
/-- The checks after a per-lane command (R125): conversions with their charges. -/
def settlePanes (v : SetVal) : SetVal × Charge :=
  let p := paneP v.u
  let r := v.panes.map fun x => match x.convertsTo v.u with
    | none => (x, ([] : Charge))
    | some t =>
      let new := repSize p t x.n x.runs
      ({ x with rep := t }, [(1, 8 + x.size p), (2, 8 + new), (3, cdiv (x.size p + new) 64), (cvCounter x.rep t, 1)])
  ({ v with panes := r.map Prod.fst }, r.flatMap Prod.snd)
/-- The rebuild at C(n) (R127). -/
def settleTable (v : SetVal) : SetVal × Charge :=
  let c := capOf v.card
  if c = v.cap then (v, []) else ({ v with cap := c, slots := rebuild c v.slots }, [(3, cdiv (4 * v.cap + 4 * c) 64), (20, 1)])
/-- n's class: n = 0 apart (R128). -/
def logClass (n : Nat) : Option Nat := if n = 0 then none else some n.log2
/-- The layout check (R128): its tests take panes in their targets, its charges the bytes as stored (R137, R138). That the panes
of a HASHED set which becomes PANED are written in their targets is the model's choice (log 20). -/
def settleLayout (v : SetVal) : SetVal × Charge :=
  let cost := fun (old new i : Nat) => [(1, old), (2, new), (3, cdiv (old + new) 64), (i, 1)]
  match v.layout with
  | .direct => (v, [])
  | .paned =>
    if becomesHashed v.panes v.card then
      let (c, t, ff) := tableOfKeys v.members
      ({ u := v.u, layout := .hashed, cap := c, slots := t, ff := ff }, cost (v.storedBytes v.panes) (sizeHashed v.card) 10)
    else (v, [])
  | .hashed =>
    let l := panesOf (targetRep 4096) v.members
    if becomesPaned l v.card then
      ({ u := v.u, layout := .paned, panes := l }, cost (sizeHashed v.card) (sizePaned l) 11)
    else (v, [])
/-- Everything that follows the lanes of a SET.INS or SET.DEL; `n0` is the cardinality before it. -/
def settle (n0 : Nat) (v : SetVal) : SetVal × Charge :=
  let (v, c1) := if v.layout = .hashed then settleTable v else settlePanes v
  if logClass n0 = logClass v.card then (v, c1) else let (v, c2) := settleLayout v; (v, c1 ++ c2)

/-! Bulk commands (R136 to R139, R151). -/

inductive SetAlg where | union | inter | diff
deriving DecidableEq, Repr

/-- Result members. -/
def combine (op : SetAlg) (a b : List Nat) : List Nat :=
  match op with
  | .union => sortKeys (a ++ b)
  | .inter => a.filter b.contains
  | .diff => a.filter (fun k => !b.contains k)
/-- The algorithm of a pane pair by its counter, and its clocks (R136). -/
def pairCost (p : Nat) (a b : Pane) : Nat × Nat :=
  let s := Nat.min a.n b.n
  let g := Nat.max a.n b.n
  match a.rep, b.rep with
  | .list, .list => if g < 16 * s then (12, cdiv (a.n + b.n) 8) else (13, s * (2 + clog2 (cdiv g s)))
  | .list, .map => (14, cdiv a.n 4)
  | .map, .list => (14, cdiv b.n 4)
  | .map, .map => (15, cdiv p 512)
  | .runs, .runs => (16, cdiv (a.runs + b.runs) 4)
  | .runs, .map => (17, cdiv p 512 + cdiv a.runs 8)
  | .map, .runs => (17, cdiv p 512 + cdiv b.runs 8)
  | .runs, .list => (18, cdiv b.n 4 + cdiv a.runs 8)
  | .list, .runs => (18, cdiv a.n 4 + cdiv b.runs 8)
/-- What reading operands costs: clocks, algorithm counters, panes and bytes read of A and of B. -/
structure ReadCost where
  clocks : Nat
  al : Charge
  panesA : Nat
  panesB : Nat
  bytesA : Nat
  bytesB : Nat
deriving DecidableEq, Repr
/-- Bytes of an operand of which these panes are read. -/
def SetVal.readBytes (v : SetVal) (l : List Pane) : Nat :=
  if v.layout = .hashed then 64 + 4 * v.cap else 64 + v.storedBytes l
/-- Panes that take part in pairing: a DIRECT pane without members is absent (R124). -/
def SetVal.present (v : SetVal) : List Pane := v.panes.filter (fun x => x.n ≠ 0)
/-- A pane that is paired with one of `v`'s. -/
def SetVal.pairs (v : SetVal) (x : Pane) : Bool := x.n ≠ 0 && v.present.any (·.no = x.no)
/-- Pane by pane. A pane is read where it is paired or where its members enter the result; so a DIRECT pane without members is read
in a union, and as A in a difference (R124, R138). -/
def paneCost (op : SetAlg) (a b : SetVal) : ReadCost :=
  let p := paneP a.u
  let paired := a.present.filterMap fun x => (b.present.find? (·.no = x.no)).map fun y => pairCost p x y
  let ra := a.panes.filter fun x => op ≠ .inter || b.pairs x
  let rb := b.panes.filter fun y => op = .union || a.pairs y
  ⟨(paired.map Prod.snd).sum, paired.map fun x => (x.1, 1), ra.length, rb.length, a.readBytes ra, b.readBytes rb⟩
/-- ΣL(k) of members looked up in a table. -/
def sumL (h : SetVal) (keys : List Nat) : Nat := (keys.map fun k => (keyTest h k).2).sum
/-- With a HASHED operand: hash probe, and the scans. That a PANED operand then counts all of its panes as read, whatever the
operation, is the model's choice (log 20); so is that C_probed, of two HASHED operands, is the C of the one whose members are looked
up, the one of smaller C. -/
def hashCost (op : SetAlg) (a b : SetVal) : ReadCost :=
  let ha : Bool := a.layout = .hashed
  let hb : Bool := b.layout = .hashed
  let look := if ha && hb then
      (if b.cap < a.cap then cdiv b.cap 16 + cdiv (sumL a b.members) 4 else cdiv a.cap 16 + cdiv (sumL b a.members) 4)
    else if ha then cdiv (sumL a b.members) 4 else cdiv (sumL b a.members) 4
  let scan := (if ha && op ≠ .inter then cdiv a.cap 16 else 0) + (if hb && op = .union then cdiv b.cap 16 else 0)
  ⟨look + scan, [(19, 1)], if ha then 1 else a.present.length, if hb then 1 else b.present.length,
   a.readBytes a.present, b.readBytes b.present⟩
def readCost (op : SetAlg) (a b : SetVal) : ReadCost :=
  if a.layout = .hashed ∨ b.layout = .hashed then hashCost op a b else paneCost op a b
/-- One operand read whole: SET.COPY and SET.EXPORT. -/
def wholeCost (a : SetVal) : ReadCost :=
  ⟨0, [], if a.layout = .hashed then 1 else a.panes.length, 0, a.readBytes a.panes, 0⟩
/-- Clocks and bytes of a result written. -/
def SetVal.writeClocks (v : SetVal) : Nat := v.granules
def SetVal.writeBytes (v : SetVal) : Nat := v.readBytes v.panes
/-- Clocks of a command that reads `r` of operands with directories of `d` entries together. -/
def bulkClocks (d : Nat) (r : ReadCost) (res : Option SetVal) : Nat :=
  4 + cdiv d 8 + r.clocks + match res with | some v => v.writeClocks | none => 0

/-- The plan of a bulk command: its result, if it writes one, what it counts, and its charges: to A, to B, and to the
handle that bears the rest. -/
structure Plan where
  res : Option SetVal
  count : Nat
  chargeA : Charge
  chargeB : Charge
  charge : Charge
deriving DecidableEq, Repr
def planOf (r : ReadCost) (clocks : Nat) (res : Option SetVal) (count : Nat) : Plan :=
  ⟨res, count, [(0, r.panesA), (1, r.bytesA)], [(0, r.panesB), (1, r.bytesB)],
   [(3, clocks)] ++ r.al ++ (match res with | some v => [(2, v.writeBytes)] | none => [])⟩
/-- SET.UNION, SET.INTER, SET.DIFF, and with `write` false SET.XCARD. -/
def planCombine (op : SetAlg) (write : Bool) (a b : SetVal) : Plan :=
  let keys := combine op a.members b.members
  let r := readCost op a b
  let res := if write then some (SetVal.written a.u (targetRep (paneP a.u)) keys none) else none
  planOf r (bulkClocks (a.dir + b.dir) r res) res keys.length
/-- SET.COPY. -/
def planCopy (a : SetVal) : Plan :=
  let r := wholeCost a
  let rep := fun no ks => if a.layout = .hashed then targetRep 4096 no ks else (a.pane no).rep
  let res := SetVal.written a.u rep a.members (if a.layout = .hashed then some a else none)
  planOf r (bulkClocks a.dir r (some res)) (some res) a.card
/-- SET.EXPORT (R153). -/
def planExport (a : SetVal) : Plan :=
  let r := wholeCost a
  let mid := if a.layout = .hashed then cdiv (4 * a.cap) 64
    else cdiv a.dir 8 + (a.panes.map fun x => cdiv (a.paneBytes x) 64).sum
  planOf r (4 + mid + cdiv a.card 16) none a.card
/-- SET.IMPORT (R152): `keys` are the valid keys sorted, `n` the array's length; without REPL it combines with D's value. -/
def planImport (repl : Bool) (u n : Nat) (d : SetVal) (keys : List Nat) : Plan :=
  let k : SetVal := { u := u, layout := if u ≤ 4096 then .direct else .paned, panes := panesOf (fun _ _ => .list) keys }
  let dk := k.panes.length
  let sort := cdiv (n * clog2 (n + 1)) 8
  let all := if repl then keys else combine .union d.members keys
  let res := SetVal.written u (targetRep (paneP u)) all none
  let r := if repl then ⟨0, [], 0, 0, 0, 0⟩ else readCost .union d k
  let p := planOf r (sort + bulkClocks ((if repl then 0 else d.dir) + dk) r (some res)) (some res) all.length
  { p with chargeA := p.chargeA ++ [(1, 4 * n)], chargeB := [] }

/-- Panes a value counts for in a reservation's p (R134). -/
def SetVal.panesBound (v : SetVal) : Nat :=
  if v.u ≤ 4096 then 1 else if v.layout = .hashed then Nat.min v.card (cdiv v.u 4096) else v.panes.length
/-- Granules of the worst case of a result of at most k members in at most p panes (R134). -/
def bulkReserve (u k p : Nat) : Nat :=
  let bp := 256 + 80 * p + Nat.min (2 * k) (p * (paneP u / 8)) + 576
  cdiv (if u ≤ 4096 then bp else Nat.max bp (256 + 4 * capOf k + 576)) 64

/-- A reading of a charge: the sum on one counter. -/
def Charge.on (c : Charge) (i : Nat) : Nat := ((c.filter (·.1 = i)).map Prod.snd).sum

end Sys2Proof.Machine
end

