-- ==== Sys2Proof/Machine/SetOps.lean ====
section
/-! DEFINITION. Set instructions and the steps of the Cerulean slices (R119 to R153, R302). -/

namespace Sys2Proof.Machine

/-! The handle table (R119 to R121, R133, R134). -/

def Ctx.set (c : Ctx) (i : Nat) : SetEntry := Tab.get {} i c.sets
/-- LAYOUT and REP codes (R120, R147). -/
def layoutCode : Layout → Nat | .direct => 0 | .paned => 1 | .hashed => 2
def repCode : Rep → Nat | .list => 1 | .map => 2 | .runs => 3
/-- A table entry's sixteen bytes (R120). -/
def SetEntry.bytes (e : SetEntry) : List Byte :=
  leBytes 8 (e.check.toNat * 2 ^ 56 + (if e.v then 2 ^ 55 else 0) + (if e.pin then 2 ^ 54 else 0)
    + layoutCode e.val.layout * 2 ^ 52 + e.home * 2 ^ 47 + e.hdr.toNat) ++ leBytes 8 (e.val.u - 1)
/-- The 21 cost counters as the set's header holds them, at bytes 64 to 231 (R133, R138). -/
def SetEntry.costBytes (e : SetEntry) : List Byte := (List.range 21).flatMap fun n => leBytes 8 (Tab.get (0 : DWord) n e.cost).toNat
/-- Where the header of an entry's set lies in the arena, four granules long (R120, R133). -/
def Ctx.headerAt (c : Ctx) (e : SetEntry) : Nat := c.arena + 64 * e.hdr.toNat
/-- An entry written: in the table that the slices read, in its bytes at SHT, and the cost counters of a live set in its
header in the arena; the stamp of set versions advances. R120 says that SET.NEW and SET.FREE alone write an entry, and gives it
LAYOUT and PIN bits that change in between: that the entry's bytes are written at every change of these is the model's choice
(log 11). -/
def State.putSet (ctx i : Nat) (e : SetEntry) (s : State) : State :=
  let c := s.ctxAt ctx
  let s := (s.setCtxAt ctx { c with sets := Tab.put {} i e c.sets, setStamp := c.setStamp + 1 }).writeMem (c.sht + 16 * i) e.bytes
  if e.v then s.writeMem (c.headerAt e + 64) e.costBytes else s
/-- A handle's INDEX and CHECK. -/
def handleIndex (h : Word) : Nat := h.toNat % 2 ^ 24
def handleCheck (h : Word) : Byte := BitVec.ofNat 8 (h.toNat / 2 ^ 24)
/-- A handle is stale (R121). -/
def Ctx.stale (c : Ctx) (h : Word) : Bool :=
  let e := c.set (handleIndex h)
  c.shtn ≤ handleIndex h || !e.v || e.check ≠ handleCheck h

/-- The stamp of an item's version: the directory or the table at key 0, pane p at key p + 1. -/
def Vers.of (w : Vers) (key : Nat) : Nat := Tab.get w.base key w.at_
/-- The versions after a mutation with stamp `n` (R131): a changed pane, a changed directory, or the table, is a new version. -/
def Vers.mut (n : Nat) (old new : SetVal) (w : Vers) : Vers :=
  if old = new then w
  else if old.layout = .hashed ∨ new.layout = .hashed then ⟨n, []⟩
  else
    let put := fun key (w : Vers) => { w with at_ := Tab.put w.base key n w.at_ }
    (new.panes.filter fun x => !old.panes.contains x).foldl (fun w x => put (x.no + 1) w)
      (if old.panes.map Pane.no = new.panes.map Pane.no then w else put 0 w)
/-- A set's value after a mutation, and a value that replaces it whole. -/
def SetEntry.mutated (n : Nat) (v : SetVal) (e : SetEntry) : SetEntry := { e with val := v, vers := e.vers.mut n e.val v }
def SetEntry.replaced (n : Nat) (v : SetVal) (e : SetEntry) : SetEntry := { e with val := v, vers := ⟨n, []⟩ }
/-- The items of set `i` under a value and its versions: the index, the item's key, its stamp and its granules (R133). -/
def versionItems (i : Nat) (v : SetVal) (w : Vers) : List (Nat × Nat × Nat × Nat) :=
  if v.layout = .hashed then [(i, 0, w.of 0, v.granules)]
  else (i, 0, w.of 0, cdiv (8 * v.dir) 64) :: v.panes.map fun x => (i, x.no + 1, w.of (x.no + 1), cdiv (v.paneBytes x) 64)
/-- Free granules of the arena (R133, R134): live sets, reservations, and the versions that a running command references
and that are no longer current (R131), are in use. -/
def Ctx.freeGranules (c : Ctx) : Nat :=
  let live := (c.sets.map fun p => if p.2.v then 4 + p.2.val.granules else 0).sum
  let held := (c.setCmds.map fun m => m.reserve).sum
  let refs := (c.setCmds.flatMap fun m =>
    m.va.toList.flatMap (versionItems m.a · m.ra) ++ m.vb.toList.flatMap (versionItems m.b · m.rb)).dedup
  let old := refs.filter fun r => !((c.set r.1).v && (versionItems r.1 (c.set r.1).val (c.set r.1).vers).contains r)
  c.arenag - (live + held + (old.map fun r => r.2.2.2).sum)
/-- Where a new set's header of four granules lies: the first place free from a free one on (R133; log 11). -/
def Ctx.headerPlace (c : Ctx) (start : Nat) : BitVec 29 :=
  let n := Nat.max 1 (c.arenag / 4)
  let used := c.sets.filterMap fun p => if p.2.v then some p.2.hdr else none
  let place := fun j => BitVec.ofNat 29 (4 * ((start + j) % n))
  (((List.range (c.sets.length + 1)).map place).find? fun h => !used.contains h).getD (place 0)

/-! Waiting (R130, R131, R150). -/

def SetCmdKind.writes : SetCmdKind → Bool | .xcard .. | .export_ .. => false | _ => true
/-- The operands a command reads: A of every kind but SET.IMPORT, whose operand is D unless REPL. -/
def SetCmdKind.readsA : SetCmdKind → Bool | .import_ repl .. => !repl | _ => true
def SetCmdKind.readsB : SetCmdKind → Bool | .union | .inter | .diff | .xcard .. => true | _ => false
def SetCmd.writesTo (m : SetCmd) (i : Nat) : Bool := m.kind.writes && m.d = i
/-- It has still to take its reference to set `i`. -/
def SetCmd.awaits (m : SetCmd) (i : Nat) : Bool :=
  (m.kind.readsA && m.a = i && m.va.isNone) || (m.kind.readsB && m.b = i && m.vb.isNone)
def SetCmd.names (m : SetCmd) (i : Nat) : Bool := m.writesTo i || (m.kind.readsA && m.a = i) || (m.kind.readsB && m.b = i)
/-- The warp's own earlier commands on set `i` have still to write it or to take their references (R143). -/
def State.ownBusy (s : State) (i : Nat) : Bool :=
  s.ctx.setCmds.any fun m => m.wg = wgOf s.cur && m.warp = warpNo s.cur && (m.writesTo i || m.awaits i)
/-- An operation of the executing warp on set `i` waits: for a started command whose destination it is, and for the warp's
own earlier commands on it. -/
def State.setBusy (s : State) (i : Nat) : Bool := (s.ctx.setCmds.any fun m => m.started && m.writesTo i) || s.ownBusy i
/-- The UNIT number of a slice (R301), and whether it is frozen (R303). -/
def sliceUnit (home : Nat) : BitVec 16 := BitVec.ofNat 16 (3 * 2 ^ 12 + 2 ^ 8 * (home / 8) + home % 8)
def State.sliceFrozen (s : State) (home : Nat) : Bool := s.isFrozen (home / 8) (sliceUnit home)

/-- The poisoned lines of set `i`'s header, lowest first. -/
def State.poisonedHeader (s : State) (ctx i : Nat) : List Nat :=
  let a := (s.ctxAt ctx).headerAt ((s.ctxAt ctx).set i)
  (List.range 5).map (a / 64 + ·) |>.filter fun n => n * 64 < a + 256 && s.linePoison.contains n
/-- Set `i` holds poison that no slice has found: in its directory, panes or table, or in a line of its header (R302). -/
def State.poisonedSet (s : State) (ctx i : Nat) : Bool :=
  ((s.ctxAt ctx).set i).poison || !(s.poisonedHeader ctx i).isEmpty
/-- A slice writes a new header whole, whose lines are then poisoned no longer: that a whole header is written, and only by
SET.NEW, is the model's choice (log 34). -/
def State.newHeader (ctx : Nat) (e : SetEntry) (s : State) : State :=
  let a := (s.ctxAt ctx).headerAt e
  { s with linePoison := s.linePoison.filter fun n => !(a ≤ 64 * n && 64 * n < a + 256) }
/-- A slice finds poison in set `i`: the set is lost, and a DATA_LOSS record is written with its line: the
header's lowest poisoned one; a line of its items, whose places the spec does not give, is a free value (R300, R302; log 34). -/
def State.loseSet (ctx i wg : Nat) (warp : Nat) (pc handle : DWord) (s : State) : State :=
  let e := (s.ctxAt ctx).set i
  let g := s.wgAt wg
  let found := (s.poisonedHeader ctx i).head?
  let (x, s) := (s.putSet ctx i { e with poison := false, lost := true }).fresh
  s.errRecord ctx { kind := 3, cause1 := 0x38, cause2 := 0x38, warp := warp, unit := (sliceUnit e.home).toNat, seq := g.seq
                    index := g.index, pc1 := pc, addr1 := handle, addr2 := (found.map fun n => location (64 * n)).getD x }
/-- The handle's checks and those that its table entry decides, `bad` giving cause, lanes and address; then the waits; the
reservation of `need` granules; and for an instruction that reads the set's items poison, which is met only once all of these
have passed (R122, R134, R141); then `k` gets the index. Where 0x38 of a lost set stands among the checks is the model's choice:
right after the stale handle's (log 34). -/
def handleGate (h : Word) (reads : Bool) (bad : SetEntry → Option (Byte × DWord × DWord)) (need : SetEntry → Nat)
    (k : Nat → State → State) (s : State) : State :=
  let i := handleIndex h
  let e := s.ctx.set i
  if s.ctx.stale h then s.refuse 0x18 h.toNat
  else if e.lost then s.refuse 0x38 h.toNat
  else match bad e with
  | some (c, lanes, a) => s.raise c lanes a
  | none =>
    if s.setBusy i || s.sliceFrozen e.home then s.stallOn .sets
    else if s.ctx.freeGranules < need e then s.refuse 0x19 h.toNat
    else if reads && s.poisonedSet s.wg.ctx i then
      (s.loseSet s.wg.ctx i (wgOf s.cur) (warpNo s.cur) s.warp.pc (h.setWidth 64)).refuse 0x38 h.toNat
    else k i s

/-! Per-lane instructions (R141, R142). -/

inductive LaneOp where | ins | del | test | card | rank | sel | next
deriving DecidableEq, Repr
def LaneOp.mutates : LaneOp → Bool | .ins | .del => true | _ => false
/-- One lane: its result, the value after it, the clocks and the rebuilds. -/
def LaneOp.run (op : LaneOp) (v : SetVal) (k : Nat) : Nat × SetVal × Nat × Nat :=
  match op with
  | .ins => let r := keyStep true v k; (if r.hit then 0 else 1, r.val, r.clocks, r.rehash)
  | .del => let r := keyStep false v k; (if r.hit then 1 else 0, r.val, r.clocks, r.rehash)
  | .test => let r := keyTest v k; (if r.1 then 1 else 0, v, r.2, 0)
  | .card => (v.card, v, 1, 0)
  | .rank => ((v.members.filter (· < k)).length, v, orderClocks v (some k), 0)
  | .sel => ((v.members[k]?).getD (2 ^ 32 - 1), v, orderClocks v v.members[k]?, 0)
  | .next => ((v.members.find? (k ≤ ·)).getD (2 ^ 32 - 1), v, orderClocks v (v.members.find? (k ≤ ·)), 0)
/-- The lanes in ascending order at one point. -/
def runLanes (op : LaneOp) (keys : List (Nat × Nat)) (v : SetVal) : List (Nat × Nat) × SetVal × Nat × Nat :=
  keys.foldl (fun acc p =>
    let (r, v, c, h) := op.run acc.2.1 p.2
    (acc.1 ++ [(p.1, r)], v, acc.2.2.1 + c, acc.2.2.2 + h)) ([], v, 0, 0)
/-- Granules a SET.INS or SET.DEL of `j` keys reserves (R134). -/
def laneReserve (v : SetVal) (j : Nat) : Nat :=
  cdiv (if v.layout = .hashed then 4 * capOf (v.card + j) + 576 else 80 * j + 576) 64
/-- The other lane operations reserve nothing. -/
def LaneOp.need (op : LaneOp) (j : Nat) (e : SetEntry) : Nat := if op.mutates then laneReserve e.val j else 0
/-- A lane's key at or beyond the set's universe (R122, R141): SET.SEL and SET.CARD have none. -/
def badKeys (op : LaneOp) (keys : List (Nat × Nat)) (u : Nat) : List (Nat × Nat) :=
  if op = .sel || op = .card then [] else keys.filter fun p => u ≤ p.2
/-- SetLane() (R141). `w64` writes a pair. -/
def setLane (op : LaneOp) (w64 : Bool) (o : Opd) : State → State :=
  vecGate o (if op = .card then [] else [(1, o.b, false)]) fun s =>
    let w := s.warp
    let h : Word := (sval w o.a).setWidth 32
    let keys := (bodyLanes w s.width o.u).map fun l => (l, (lane32 w s.width o.b l).toNat)
    handleGate h true (fun e =>
      let bad := badKeys op keys e.val.u
      bad.head?.map fun p => (0x1A, if o.u then w.exec else maskOf 64 fun l => bad.any (·.1 = l), BitVec.ofNat 64 p.2))
      (op.need keys.length)
      (fun i s =>
      let e := s.ctx.set i
      let (res, v, clocks, rehash) := runLanes op keys e.val
      let (v, c) := if op.mutates then settle e.val.card v else (v, [])
      let cost := addCost e.cost ([(3, 4 + clocks), (20, rehash)] ++ c)
      let s := s.putSet s.wg.ctx i { e.mutated (s.ctx.setStamp + 1) v with cost := cost }
      let f := fun l => Tab.get 0 l res
      s.done o (if w64 then s.warp.vput64 s.width o.u o.d fun l => BitVec.ofNat 64 (f l)
        else s.warp.vputGen s.width o.u o.d fun l => BitVec.ofNat 32 (Nat.min (f l) (2 ^ 32 - 1)))) s

/-! Creating, freeing and inspecting (R143 to R149). -/

/-- An instruction on one handle, nothing with exec empty. -/
def setOnce (reads : Bool) (bad : SetEntry → Option (Byte × DWord × DWord)) (k : Nat → State → State) (o : Opd) (s : State) :
    State :=
  if s.warp.exec = 0 then s.retire o else handleGate ((sval s.warp o.a).setWidth 32) reads bad (fun _ => 0) k s
/-- No check that the table entry decides. -/
def noCheck (_ : SetEntry) : Option (Byte × DWord × DWord) := none
/-- The lowest-numbered entry with V = 0 (R120). -/
def freeEntry (c : Ctx) : Option Nat :=
  (List.range (Nat.min c.shtn (c.sets.length + 1))).find? fun i => !(c.set i).v
/-- The home slice (R129). -/
def homeOf (i : Nat) (die : Option Nat) : Nat :=
  let g := i * 0x9E3779B1 % 2 ^ 32
  match die with | none => g / 2 ^ 27 | some d => 8 * d + g / 2 ^ 29
/-- SET.NEW (R144). Where its header lies in the arena is free (log 11). -/
def setNewOp (hint : Bool) (o : Opd) (s : State) : State :=
  let u := (lane32 s.warp s.width o.a 0).toNat
  let u := if u = 0 then 2 ^ 32 else u
  let die := (sval s.warp o.b).toNat
  let v := SetVal.empty u
  if s.warp.exec = 0 then s.retire o
  else if hint && 3 < die then s.refuse 0x03 s.warp.pc.toNat
  else match freeEntry s.ctx with
  | none => s.refuse 0x19 0xFFFFFFFF
  | some i =>
    if s.ctx.freeGranules < 4 + v.granules then s.refuse 0x19 0xFFFFFFFF
    else
      let old := s.ctx.set i
      let check : Byte := if old.check = 255 then 1 else old.check + 1
      let (x, s) := s.fresh
      let e : SetEntry := { check := check, v := true, home := homeOf i (if hint then some die else none)
                            hdr := s.ctx.headerPlace x.toNat, val := v, vers := ⟨s.ctx.setStamp + 1, []⟩ }
      ((s.newHeader s.wg.ctx e).putSet s.wg.ctx i e).done o (writeS s.warp o.d ((check ++ BitVec.ofNat 24 i).setWidth 64))
/-- SET.FREE (R145): after every issued command that names the set has its references, and the one that writes it is done
(log 19). -/
def setFreeOp (o : Opd) (s : State) : State :=
  let h : Word := (sval s.warp o.a).setWidth 32
  let i := handleIndex h
  if s.warp.exec = 0 then s.retire o
  else if s.ctx.stale h then s.refuse 0x18 h.toNat
  else if (s.ctx.setCmds.any fun m => m.writesTo i || m.awaits i) || s.sliceFrozen (s.ctx.set i).home then s.stallOn .sets
  else (s.putSet s.wg.ctx i { s.ctx.set i with v := false, poison := false, lost := false }).retire o
/-- SET.CLEAR (R145). That it meets no poison which is not found yet, and leaves the mark of it to the empty set, where a bulk
result that replaces the set takes the mark away, is the model's choice (log 34). -/
def setClearOp (o : Opd) : State → State := fun s => setOnce false noCheck (fun i s =>
  let e := s.ctx.set i
  (s.putSet s.wg.ctx i { e.replaced (s.ctx.setStamp + 1) (SetVal.empty e.val.u) with cost := addCost e.cost [(3, 4)] }).retire o)
  o s
/-- The bytes pinned of a set (R146). -/
def SetVal.pinBytes (v : SetVal) : Nat :=
  match v.layout with
  | .hashed => 4 * v.cap
  | .paned => 8 * v.dir
  | .direct => (v.panes.map v.paneBytes).sum
/-- Bytes pinned on a slice by the sets of every context but this one. -/
def State.pinned (s : State) (home ctx i : Nat) : Nat :=
  (s.ctxs.flatMap fun c => c.2.sets.map fun p =>
    if p.2.v && p.2.pin && p.2.home = home && !(c.1 = ctx && p.1 = i) then p.2.val.pinBytes else 0).sum
/-- SET.PIN (R146). That it meets no poison which is not found yet is the model's choice (log 34). -/
def setPinOp (on : Bool) (o : Opd) : State → State := fun s => setOnce false noCheck (fun i s =>
  let e := s.ctx.set i
  if on && 2 ^ 20 < s.pinned e.home s.wg.ctx i + e.val.pinBytes then s.done o (writeS s.warp o.d 1)
  else (s.putSet s.wg.ctx i { e with pin := on }).done o (writeS s.warp o.d 0)) o s
/-- SET.REP's word (R147). -/
def SetEntry.repWord (e : SetEntry) (no : Nat) : DWord :=
  let v := e.val
  let x := v.panes.find? (·.no = no)
  let n := if v.layout = .hashed then v.cap.log2 else (x.map Pane.n).getD 0
  BitVec.ofNat 64 (layoutCode v.layout * 2 ^ 62 + (if v.layout = .hashed then 0 else ((x.map fun p => repCode p.rep).getD 0)) * 2 ^ 60
    + (if e.pin then 2 ^ 59 else 0) + e.home * 2 ^ 54 + v.dir * 2 ^ 32 + n * 2 ^ 16 + ((x.map Pane.runs).getD 0))
/-- SET.REP. -/
def setRepOp (o : Opd) : State → State := fun s =>
  let no := sval s.warp o.b
  setOnce true (fun e => if cdiv e.val.u 4096 ≤ no.toNat then some (0x1A, s.warp.exec, no) else none)
    (fun i s => s.done o (writeS s.warp o.d ((s.ctx.set i).repWord no.toNat))) o s
/-- SET.COST (R148): its own warp's and started commands' charges come whole. -/
def setCostOp (o : Opd) : State → State := fun s =>
  let n := (sval s.warp o.b).toNat
  setOnce true (fun _ => if 20 < n then some (0x03, s.warp.exec, s.warp.pc) else none)
    (fun i s => s.done o (writeS s.warp o.d (Tab.get 0 n (s.ctx.set i).cost))) o s
/-- The plan of a proposed command (R139, R149). -/
def estPlan (c : EstCmd) (a b : SetVal) : Plan :=
  match c with
  | .union => planCombine .union true a b
  | .inter => planCombine .inter true a b
  | .diff => planCombine .diff true a b
  | .copy => planCopy a
  | .export_ => planExport a
  | .xinter => planCombine .inter false a b
  | .xunion => planCombine .union false a b
  | .xdiff => planCombine .diff false a b
def estUsesB : EstCmd → Bool | .copy | .export_ => false | _ => true
def estUsesC : EstCmd → Bool | .union | .inter | .diff | .copy => true | _ => false
def Plan.quantity (p : Plan) : EstQ → Nat
  | .rd => Charge.on (p.chargeA ++ p.chargeB) 1
  | .wr => Charge.on p.charge 2
  | .clk => Charge.on p.charge 3
/-- The handles in order: the first stale one faults. -/
def handlesGate : List Word → (State → State) → State → State
  | [], k, s => k s
  | h :: r, k, s => if s.ctx.stale h then s.refuse 0x18 h.toNat else handlesGate r k s
/-- Operands that are read: each as for one handle. -/
def valuesGate : List Word → (State → State) → State → State
  | [], k, s => k s
  | h :: r, k, s => handleGate h true noCheck (fun _ => 0) (fun _ s => valuesGate r k s) s
/-- A handle that names a lost set faults at issue (R302). -/
def lostGate (hs : List Word) (k : State → State) (s : State) : State :=
  match hs.find? fun h => (s.ctx.set (handleIndex h)).lost with
  | some h => s.refuse 0x38 h.toNat
  | none => k s
/-- Every handle's universe is the first's (R122). -/
def Ctx.sameU (c : Ctx) (hs : List Word) : Bool :=
  match hs with
  | [] => true
  | h :: r => r.all fun x => (c.set (handleIndex x)).val.u = (c.set (handleIndex h)).val.u
/-- SET.EST (R149): the operands are read, and wait and are found poisoned as such; the destination's handle is checked alone,
after the warp's own earlier commands on it. -/
def setEstOp (q : EstQ) (cmd : EstCmd) (o : Opd) (s : State) : State :=
  let h := fun f => (sval s.warp f).setWidth 32
  let read := h o.a :: if estUsesB cmd then [h o.b] else []
  let hs := read ++ if estUsesC cmd then [h o.c] else []
  if s.warp.exec = 0 then s.retire o
  else handlesGate hs (lostGate hs fun s =>
    if !s.ctx.sameU hs then s.refuse 0x1A (h o.a).toNat
    else if estUsesC cmd && s.ownBusy (handleIndex (h o.c)) then s.stallOn .sets
    else valuesGate read (fun s =>
      let val := fun f => (s.ctx.set (handleIndex (h f))).val
      s.done o (writeS s.warp o.d (BitVec.ofNat 64 ((estPlan cmd (val o.a) (val o.b)).quantity q)))) s) s

/-! Bulk instructions (R150 to R153). -/

/-- SetBulk() (R150). `loc` is SET.XCARD's result, `range` the array or output of checks 5, `hs` the handles in check order
with A first, `dest` the destination's handle where one is written, `res` its reservation. -/
def setBulk (kind : SetCmdKind) (obj : Nat) (loc : Option Nat) (hs : List Word) (bad5 : Bool) (range : List GRange)
    (res : Ctx → Nat) (d a b : Word) (o : Opd) (s : State) : State :=
  let addr := match range with | r :: _ => r.va.toNat | [] => 0
  if s.warp.exec = 0 then s.retire o
  else if !objectOk s.wg obj (loc.toList.map fun l => (l, 8)) then s.refuse 0x12 obj
  else if loc.any fun l => l % 8 ≠ 0 || s.wg.alloc < l + 8 then s.refuse 0x0C (loc.getD 0)
  else handlesGate hs (lostGate hs fun s =>
    if !s.ctx.sameU hs then s.refuse 0x1A (hs.headD 0).toNat
    else if bad5 then s.refuse 0x14 addr
    else match s.checkRanges s.wg.core s.wg.ctx range [] with
    | .wait => s.stallOn .migrate
    | .bad x => s.refuse 0x14 x
    | .ok x =>
      let n := res s.ctx
      if kind.writes && s.ctx.freeGranules < n then s.refuse 0x19 d.toNat
      else
        let s := s.flushReds s.cur
        let c := s.ctx
        let m : SetCmd := { id := s.nextCmd, wg := wgOf s.cur, warp := warpNo s.cur, kind := kind, d := handleIndex d
                            a := handleIndex a, b := handleIndex b, ha := a, hb := b, obj := obj, xlat := x, reserve := n }
        (({ s with nextCmd := s.nextCmd + 1 } : State).setCtxAt s.wg.ctx { c with setCmds := c.setCmds ++ [m] }).retire o) s
def Ctx.val (c : Ctx) (h : Word) : SetVal := (c.set (handleIndex h)).val
/-- The handles of fields and the object of a bulk instruction. -/
def hnd (w : Warp) (f : Src) : Word := (sval w f).setWidth 32
def hndD (w : Warp) (o : Opd) : Word := (readS w o.d).setWidth 32
def maxPanes (u : Nat) : Nat := cdiv u 4096
/-- SET.UNION, SET.INTER, SET.DIFF (R134). -/
def setCombineOp (op : SetAlg) (o : Opd) (s : State) : State :=
  let w := s.warp
  let a := hnd w o.a
  let b := hnd w o.b
  let d := hndD w o
  let kind := match op with | .union => SetCmdKind.union | .inter => .inter | .diff => .diff
  setBulk kind (sval w o.c).toNat none [a, b, d] false [] (fun c =>
    let x := c.val a
    let y := c.val b
    match op with
    | .union => bulkReserve x.u (x.card + y.card) (if x.u ≤ 4096 then 1 else Nat.min (x.panesBound + y.panesBound) (maxPanes x.u))
    | .inter => bulkReserve x.u (Nat.min x.card y.card) (Nat.min x.panesBound y.panesBound)
    | .diff => bulkReserve x.u x.card x.panesBound) d a b o s
def setCopyOp (o : Opd) (s : State) : State :=
  let w := s.warp
  let a := hnd w o.a
  let d := hndD w o
  setBulk .copy (sval w o.c).toNat none [a, d] false [] (fun c => bulkReserve (c.val a).u (c.val a).card (c.val a).panesBound)
    d a a o s
def setXcardOp (op : XOp) (o : Opd) (s : State) : State :=
  let w := s.warp
  let a := hnd w o.a
  let b := hnd w o.b
  let loc := (readS w o.d).toNat
  setBulk (.xcard op loc) (sval w o.c).toNat (some loc) [a, b] false [] (fun _ => 0) a a b o s
/-- N's limit and the address's alignment (check 5). -/
def badArray (va : DWord) (n align : Nat) : Bool := n = 0 || 2 ^ 23 < n || va.toNat % align ≠ 0
def setImportOp (repl : Bool) (o : Opd) (s : State) : State :=
  let w := s.warp
  let d := hndD w o
  let va := sval w o.a
  let n := (sval w o.b).toNat
  setBulk (.import_ repl va n) (sval w o.c).toNat none [d] (badArray va n 4) [⟨va, 4 * n, [.engRead], 4⟩] (fun c =>
    let x := c.val d
    let nd := if repl then 0 else x.card
    let pd := if repl then 0 else x.panesBound
    bulkReserve x.u (Nat.min x.u (n + nd)) (if x.u ≤ 4096 then 1 else Nat.min (maxPanes x.u) (n + pd))) d d d o s
def setExportOp (o : Opd) (s : State) : State :=
  let w := s.warp
  let a := hnd w o.a
  let va := readS w o.d
  let n := (sval w o.b).toNat
  setBulk (.export_ va n) (sval w o.c).toNat none [a] (badArray va n 8) [⟨va, 8 + 4 * n, [.engWrite], 4⟩] (fun _ => 0)
    a a a o s

/-! The slices' steps. -/

/-- The home a command linearises at. -/
def Ctx.cmdHome (c : Ctx) (m : SetCmd) : Nat := (c.set (if m.kind.writes then m.d else m.a)).home
/-- A reference to one operand; poison found makes the set lost and marks the command (R302). -/
def takeRef (ctx : Nat) (m : SetCmd) (i : Nat) (isA : Bool) (s : State) : SetCmd × State :=
  let e := (s.ctxAt ctx).set i
  let found := s.poisonedSet ctx i
  let s := if found then s.loseSet ctx i m.wg 0xFF 0 0 else s
  ({ (if isA then { m with va := some e.val, ra := e.vers } else { m with vb := some e.val, rb := e.vers }) with
     poison := m.poison || found || e.lost }, s)
/-- References to the operands that `p` picks and that no started command is about to replace. -/
def takeRefs (ctx : Nat) (p : Nat → Bool) (m : SetCmd) (s : State) : SetCmd × State :=
  let r := if m.kind.readsA && m.va.isNone && p m.a then takeRef ctx m m.a true s else (m, s)
  if m.kind.readsB && m.vb.isNone && p m.b then takeRef ctx r.1 m.b false r.2 else r
/-- SET_BULK_START (R131): the command linearises and takes references to the operands of its own home; the same step taken
again takes those of other homes, which may reflect later moments. -/
def bulkStart (ctx i : Nat) (s : State) : State :=
  let c := s.ctxAt ctx
  match c.setCmds[i]? with
  | none => s
  | some m =>
    let others := c.setCmds.eraseIdx i
    let busy := fun x => others.any fun k => k.started && k.writesTo x
    let home := c.cmdHome m
    let mine := (c.setCmds.take i).any fun k => k.wg = m.wg && k.warp = m.warp
      && [m.d, m.a, m.b].any fun x => m.names x && (k.writesTo x || k.awaits x)
    if s.sliceFrozen home then s
    else
      let go := m.started || !(mine || [m.d, m.a, m.b].any fun x => m.names x && busy x)
      if !go then s
      else
        let (m', s) := takeRefs ctx (fun x => (c.set x).home = home || m.started && !busy x && !s.sliceFrozen (c.set x).home)
          { m with started := true } s
        let c := s.ctxAt ctx
        s.setCtxAt ctx { c with setCmds := c.setCmds.set i m' }
/-- SET_BULK_START (R131). -/
def execSetBulkStart (ctx i : Nat) (s : State) : Res := .next (bulkStart ctx i s)

/-- The array of a SET.IMPORT: the valid keys, and whether a key was skipped for its value or for poison (R152). -/
def importKeys (m : SetCmd) (va n u : Nat) (s : State) : List Nat × Bool × Bool × State :=
  (List.range n).foldl (fun (acc : List Nat × Bool × Bool × State) j =>
    let (b, s) := acc.2.2.2.engRead m.xlat (va + 4 * j) 4
    if anyPoison b then (acc.1, acc.2.1, true, s)
    else if u ≤ leP b then (acc.1, true, acc.2.2.1, s) else (insKey (leP b) acc.1, acc.2.1, acc.2.2.1, s)) ([], false, false, s)
/-- The words of a SET.EXPORT. -/
def exportBytes (n : Nat) (keys : List Nat) : List Byte :=
  leBytes 8 keys.length ++ (List.range n).flatMap fun j => leBytes 4 (keys.getD j (2 ^ 32 - 1))
/-- Free bytes, of which the next serials are taken. -/
def State.freeBytes (n : Nat) (s : State) : List Byte × State :=
  ((List.range n).map fun j => Config.freeByte (s.free + j), { s with free := s.free + n })
/-- Charges added to a set, while the handle names it. -/
def State.chargeSet (ctx : Nat) (h : Word) (c : Charge) (s : State) : State :=
  let i := handleIndex h
  let e := (s.ctxAt ctx).set i
  if (s.ctxAt ctx).stale h then s else s.putSet ctx i { e with cost := addCost e.cost c }
/-- The charges of a plan made: to A, to B, and the rest to the destination, which cannot be freed meanwhile, or to A. -/
def chargePlan (ctx : Nat) (m : SetCmd) (p : Plan) (s : State) : State :=
  let s := s.chargeSet ctx m.ha p.chargeA
  let s := if m.kind.readsB then s.chargeSet ctx m.hb p.chargeB else s
  let e := (s.ctxAt ctx).set m.d
  if m.kind.writes then s.putSet ctx m.d { e with cost := addCost e.cost p.charge } else s.chargeSet ctx m.ha p.charge
/-- The charges, and a result put in place. -/
def finishPlan (ctx : Nat) (m : SetCmd) (p : Plan) (s : State) : State :=
  let s := chargePlan ctx m p s
  match p.res with
  | some v =>
    let c := s.ctxAt ctx
    s.putSet ctx m.d { (c.set m.d).replaced (c.setStamp + 1) v with poison := false, lost := m.poison }
  | none => s
/-- What a command does when it completes: its flags and the state; a lost operand gives a lost destination, or free
result words. -/
def bulkEffect (ctx : Nat) (m : SetCmd) (s : State) : BitVec 3 × State :=
  let g := s.wgAt m.wg
  let va := m.va.getD (SetVal.empty 1)
  let vb := m.vb.getD (SetVal.empty 1)
  let pf := poisonFlag m.poison
  match m.kind with
  | .union => (pf, finishPlan ctx m (planCombine .union true va vb) s)
  | .inter => (pf, finishPlan ctx m (planCombine .inter true va vb) s)
  | .diff => (pf, finishPlan ctx m (planCombine .diff true va vb) s)
  | .copy => (pf, finishPlan ctx m (planCopy va) s)
  | .xcard op off =>
    let p := planCombine (match op with | .inter => .inter | .union => .union | .diff => .diff) false va vb
    let s := finishPlan ctx m p s
    let (x, s) := if m.poison then s.freeBytes 8 else (leBytes 8 p.count, s)
    (pf, s.locWrite g off x)
  | .import_ repl addr n =>
    let u := ((s.ctxAt ctx).set m.d).val.u
    let (keys, bound, poison, s) := importKeys m addr.toNat n u s
    (poisonFlag (m.poison || poison) ||| boundFlag bound, finishPlan ctx m (planImport repl u n va keys) s)
  | .export_ addr n =>
    let s := finishPlan ctx m (planExport va) s
    let (x, s) := if m.poison then s.freeBytes (8 + 4 * n) else (exportBytes n va.members, s)
    (pf, s.engWrite m.xlat addr.toNat (x.map fun b => (b, false)))
/-- Arrival bytes (R151). -/
def SetCmdKind.count : SetCmdKind → Nat | .xcard .. => 8 | .export_ _ n => 8 + 4 * n | _ => 64
/-- SET_BULK_COMPLETE (R150). -/
def bulkComplete (ctx i : Nat) (s : State) : State :=
  let c := s.ctxAt ctx
  match c.setCmds[i]? with
  | none => s
  | some m =>
    if !m.started ∨ (m.kind.readsA ∧ m.va.isNone) ∨ (m.kind.readsB ∧ m.vb.isNone) ∨ s.sliceFrozen (c.cmdHome m) then s
    else
      let (f, s) := bulkEffect ctx m (s.setCtxAt ctx { c with setCmds := c.setCmds.eraseIdx i })
      let g := s.wgAt m.wg
      s.arrive g.core (g.base + m.obj) m.kind.count f
/-- SET_BULK_COMPLETE (R150). -/
def execSetBulkComplete (ctx i : Nat) (s : State) : Res := .next (bulkComplete ctx i s)

/-- SET_INS (R142). -/
def execSetIns (f : Ops) (s : State) : Res := .next (setLane .ins false (opd f) s)
/-- SET_INS, C form (R142, R16). -/
def execSetInsC (f : COps) (s : State) : Res := .next (setLane .ins false (copdSV f) s)
/-- SET_DEL (R142). -/
def execSetDel (f : Ops) (s : State) : Res := .next (setLane .del false (opd f) s)
/-- SET_DEL, C form (R142, R16). -/
def execSetDelC (f : COps) (s : State) : Res := .next (setLane .del false (copdSV f) s)
/-- SET_TEST (R142). -/
def execSetTest (f : Ops) (s : State) : Res := .next (setLane .test false (opd f) s)
/-- SET_TEST, C form (R142, R16). -/
def execSetTestC (f : COps) (s : State) : Res := .next (setLane .test false (copdSV f) s)
/-- SET_CARD (R142). -/
def execSetCard (f : Ops) (w64 : Bool) (s : State) : Res := .next (setLane .card w64 (opd f) s)
/-- SET_CARD, C form (R142, R16). -/
def execSetCardC (f : COps) (s : State) : Res := .next (setLane .card false (copdSV f) s)
/-- SET_RANK (R142). -/
def execSetRank (f : Ops) (s : State) : Res := .next (setLane .rank false (opd f) s)
/-- SET_RANK, C form (R142, R16). -/
def execSetRankC (f : COps) (s : State) : Res := .next (setLane .rank false (copdSV f) s)
/-- SET_SEL (R142). -/
def execSetSel (f : Ops) (s : State) : Res := .next (setLane .sel false (opd f) s)
/-- SET_SEL, C form (R142, R16). -/
def execSetSelC (f : COps) (s : State) : Res := .next (setLane .sel false (copdSV f) s)
/-- SET_NEXT (R142). -/
def execSetNext (f : Ops) (s : State) : Res := .next (setLane .next false (opd f) s)
/-- SET_NEXT, C form (R142, R16). -/
def execSetNextC (f : COps) (s : State) : Res := .next (setLane .next false (copdSV f) s)
/-- SET_UNION (R151). -/
def execSetUnion (f : Ops) (s : State) : Res := .next (setCombineOp .union (opd f) s)
/-- SET_INTER (R151). -/
def execSetInter (f : Ops) (s : State) : Res := .next (setCombineOp .inter (opd f) s)
/-- SET_DIFF (R151). -/
def execSetDiff (f : Ops) (s : State) : Res := .next (setCombineOp .diff (opd f) s)
/-- SET_XCARD (R151). -/
def execSetXcard (f : Ops) (op : XOp) (s : State) : Res := .next (setXcardOp op (opd f) s)
/-- SET_COPY (R151). -/
def execSetCopy (f : Ops) (s : State) : Res := .next (setCopyOp (opd f) s)
/-- SET_IMPORT (R152). -/
def execSetImport (f : Ops) (repl : Bool) (s : State) : Res := .next (setImportOp repl (opd f) s)
/-- SET_EXPORT (R153). -/
def execSetExport (f : Ops) (s : State) : Res := .next (setExportOp (opd f) s)
/-- SET_NEW (R144). -/
def execSetNew (f : Ops) (hint : Bool) (s : State) : Res := .next (setNewOp hint (opd f) s)
/-- SET_FREE (R145). -/
def execSetFree (f : Ops) (s : State) : Res := .next (setFreeOp (opd f) s)
/-- SET_CLEAR (R145). -/
def execSetClear (f : Ops) (s : State) : Res := .next (setClearOp (opd f) s)
/-- SET_PIN (R146). -/
def execSetPin (f : Ops) (on : Bool) (s : State) : Res := .next (setPinOp on (opd f) s)
/-- SET_REP (R147). -/
def execSetRep (f : Ops) (s : State) : Res := .next (setRepOp (opd f) s)
/-- SET_COST (R148). -/
def execSetCost (f : Ops) (s : State) : Res := .next (setCostOp (opd f) s)
/-- SET_EST (R149). -/
def execSetEst (f : Ops) (q : EstQ) (cmd : EstCmd) (s : State) : Res := .next (setEstOp q cmd (opd f) s)

end Sys2Proof.Machine
end

