-- ==== Sys2Proof/Machine/Translation.lean ====
section
/-! DEFINITION. Translation caches and the translation command queue (R40 to R44). -/

namespace Sys2Proof.Machine

/-! Translation caches (R40). -/

/-- An entry added to the TLB of a unit, which holds `cap`; the oldest leaves a full one (log 6). -/
def tlbFill (cap : Nat) (e : TlbEntry) (l : List TlbEntry) : List TlbEntry :=
  let here := fun (t : TlbEntry) => t.shared = e.shared && t.unit = e.unit
  let l := if cap ≤ l.countP here then (match l.find? here with | some t => l.erase t | none => l) else l
  l ++ [e]
/-- Some kind of access may use the page: a leaf that permits none gives no translation that succeeds (R37, R40). -/
def Leaf.usable (l : Leaf) : Bool := [Acc.read, .write, .rw, .fetch, .engRead, .engWrite].any l.permits
/-- PAGE_WALK_START, for a registered context: a miss in both TLBs walks; only a translation that succeeds is cached. Which
TLBs it enters is the model's choice: a walk fills the core's and the die's at once, and a hit in the die's fills no core's
(log 6). -/
def pageWalkStart (core ctx : Nat) (va : DWord) (s : State) : State :=
  if 256 ≤ core || !(s.ctxAt ctx).registered || !canonical va || (s.tlbHit core ctx va.toNat).isSome then s
  else match s.walk (s.ctxAt ctx) va.toNat with
  | .leaf l =>
    let e : TlbEntry := ⟨false, core, ctx, va.toNat / 2 ^ l.bits, l⟩
    if !l.usable then s
    else { s with tlb := tlbFill 16384 { e with shared := true, unit := core / 64 } (tlbFill 256 e s.tlb) }
  | _ => s
/-- PAGE_WALK_START (R40). -/
def execPageWalkStart (core ctx : Nat) (va : DWord) (s : State) : Res := .next (pageWalkStart core ctx va s)
/-- TRANSLATION_REWALK (R44): a warp that waits for a migration walks again. -/
def translationRewalk (k : Nat) (s : State) : State :=
  let w := s.warpAt k
  if w.stall = some .migrate then s.setWarpAt k { w with stall := none } else s
/-- TRANSLATION_REWALK (R44). -/
def execTranslationRewalk (k : Nat) (s : State) : Res := .next (translationRewalk k s)

/-! Translation commands (R42). -/

/-- A record's fields. -/
structure XFields where
  va : DWord
  count : Nat
  ctx : Nat
  kind : Nat
  core : Nat
  loff : Nat
  template : DWord
deriving DecidableEq, Repr
def xFields (b : XCmd) : XFields :=
  let f := fun i n => leNat ((b.drop i).take n)
  ⟨BitVec.ofNat 64 (f 0 8), f 8 4, f 12 4, f 16 2, f 18 2, f 20 4, BitVec.ofNat 64 (f 24 8)⟩
/-- A legal record of either kind. Of VA, COUNT, KIND, CORE, LOFF and TEMPLATE R42 states the limits, but what a record outside
them does only for KIND, reserved bits and COUNT: that one with CTX, CORE or LOFF outside its limits performs nothing as well is
the model's choice (log 28). -/
def XFields.ok (x : XFields) : Bool :=
  x.va.toNat % 2 ^ 19 = 0 && x.ctx < 4096 && x.core < 256 && x.loff % 16 = 0 && x.loff + 16 ≤ 2 ^ 20
    && (if x.kind = 0 then x.count ≤ 2 ^ 20 && x.template = 0 else x.kind = 1 && 1 ≤ x.count && x.count ≤ 4096)
/-- A command's arrival, with its count of 32; an object outside every scratchpad receives nothing. -/
def State.xArrive (x : XFields) (f : BitVec 3) (s : State) : State :=
  if x.core < 256 ∧ x.loff % 16 = 0 ∧ x.loff + 16 ≤ 2 ^ 20 then s.arrive x.core x.loff 32 f else s
/-- The head of the queue, when no command is in progress. -/
def State.xHead (s : State) : Option XFields := if s.inval.isSome ∨ s.zmap.isSome then none else s.xlq.head?.map xFields

/-! INVAL (R43). -/

/-- It covers the 512 KiB unit. -/
def XFields.covers (x : XFields) (unit : Nat) : Bool :=
  x.count = 0 || (x.va.toNat / 2 ^ 19 ≤ unit && unit < x.va.toNat / 2 ^ 19 + x.count)
/-- It covers part of a cached page. -/
def XFields.coversPage (x : XFields) (t : TlbEntry) : Bool :=
  t.ctx = x.ctx && (x.count = 0 ||
    overlaps (t.page * 2 ^ (t.leaf.bits - 19)) (2 ^ (t.leaf.bits - 19)) (x.va.toNat / 2 ^ 19) x.count)
/-- The LDFs whose data is on its way to a warp on a core, as commands: a workgroup's eviction discards it (R43, R233). -/
def State.ldfsInFlight (s : State) : List (Nat × Nat × List Xlat) :=
  s.wgs.flatMap fun p => if p.2.place = .resident ∨ p.2.place = .draining then
      (p.2.keys p.1).filterMap fun k => (s.warpAt k).held.map fun h =>
        (h.id, p.2.ctx, h.units.map fun u => ⟨u.1, u.2.tier, u.2.base⟩)
    else []
/-- Every command after issue, and every LDF in flight: its number, its context and its translations. -/
def State.commands (s : State) : List (Nat × Nat × List Xlat) :=
  (s.cores.flatMap fun c => c.2.queues.flatMap fun q => q.2.map fun m => (m.id, (s.wgAt m.wg).ctx, m.xlat))
    ++ s.ldfsInFlight
    ++ (s.dies.flatMap fun d => d.2.decoders.flatMap fun e =>
      (e.2.queue ++ e.2.active.toList.map Prod.fst).map fun r => (r.id, (s.wgAt r.wg).ctx, r.xlat))
    ++ s.ctxs.flatMap fun c => c.2.setCmds.map fun m => (m.id, c.1, m.xlat)
/-- INVAL: the covered translations leave every TLB; it then waits for the commands, and the LDFs in flight, that
hold one. -/
def invalStart (s : State) : State :=
  match s.xHead with
  | none => s
  | some x =>
    if !x.ok ∨ x.kind ≠ 0 then s
    else { s with
      tlb := s.tlb.filter (fun t => !x.coversPage t)
      inval := some (s.xlq.headD [], (s.commands.filter fun c => c.2.1 = x.ctx && c.2.2.any fun t => x.covers t.unit).map Prod.fst)
      xlq := s.xlq.tail }
/-- INVAL (R43). -/
def execInval (s : State) : Res := .next (invalStart s)
/-- INVAL_COMPLETE: those commands have completed, and no reduction of the context is on its way. -/
def invalComplete (s : State) : State :=
  match s.inval with
  | none => s
  | some (b, ids) =>
    let x := xFields b
    if s.commands.any (fun c => ids.contains c.1) || s.reds.any (fun r => (s.wgAt r.wg).ctx = x.ctx) then s
    else { s with inval := none }.xArrive x 0
/-- INVAL_COMPLETE (R43). -/
def execInvalComplete (s : State) : Res := .next (invalComplete s)

/-! ZMAP (R41). -/

/-- The level-3 table that a range lies in. A context without a registered descriptor has no root and no table: the spec does
not say, and this is the model's choice (log 28). -/
def State.zmapTable (s : State) (x : XFields) : Option Nat :=
  let c := s.ctxAt x.ctx
  let va := x.va.toNat
  let e1 := s.entry c.root (bits va 54 43)
  let e2 := s.entry (tableOf e1) (bits va 42 31)
  if c.registered && canonical x.va && bits e1 1 0 = 1 && tableOk c e1 && bits e2 1 0 = 1 && tableOk c e2
    && bits va 30 19 + x.count ≤ 4096 then some (tableOf e2) else none
/-- The template with the offset of page `i`. -/
def XFields.leaf (x : XFields) (i : Nat) : Nat := x.template.toNat + i * 2 ^ 19
/-- Every entry it would write is a legal leaf in place of an invalid entry. R41 names a malformed template: that a page whose
offset passes the end of the tier or of the peer's region, or a template with V = 0, refuses the whole command is the model's
choice (log 28). -/
def State.zmapOk (s : State) (x : XFields) : Bool :=
  match s.zmapTable x with
  | none => false
  | some t => bits x.template.toNat 1 0 = 3 && (List.range x.count).all fun i =>
      s.leafOk (s.ctxAt x.ctx) (x.leaf i) 19 && bits (x.leaf i) 63 52 = 0
        && bits (s.entry t (bits x.va.toNat 30 19 + i)) 0 0 = 0
/-- ZMAP: the range and template are checked, and every byte of the frames becomes zero; a command that fails a check writes
nothing and arrives with BOUND. -/
def zmapStart (s : State) : State :=
  match s.xHead with
  | none => s
  | some x =>
    if !x.ok ∨ x.kind ≠ 1 then s
    else
      let b := s.xlq.headD []
      let s := { s with xlq := s.xlq.tail }
      if !s.zmapOk x then s.xArrive x 2
      else
        let lo := memKey (bits x.template.toNat 7 6) (bits x.template.toNat 51 15 * 2 ^ 15)
        let hi := lo + x.count * 2 ^ 19
        { s with mem := Tab.delRange lo hi s.mem
                 linePoison := s.linePoison.filter (fun n => !(lo ≤ 64 * n && 64 * n < hi))
                 zmap := some b }
/-- ZMAP (R41). -/
def execZmap (s : State) : Res := .next (zmapStart s)
/-- ZMAP_WRITE_ENTRIES: the entries are written, and the command arrives. The spec does not say what becomes of a range whose
tables change after the frames were zeroed: the model walks again, arrives with BOUND where no table is left, and writes over an
entry that has become valid (log 28). -/
def zmapEntries (s : State) : State :=
  match s.zmap with
  | none => s
  | some b =>
    let x := xFields b
    let s := { s with zmap := none }
    match s.zmapTable x with
    | none => s.xArrive x 2
    | some t => ((List.range x.count).foldl (fun s i =>
        s.writeMem (t + 8 * (bits x.va.toNat 30 19 + i)) (leBytes 8 (x.leaf i))) s).xArrive x 0
/-- ZMAP_WRITE_ENTRIES (R41). -/
def execZmapWriteEntries (s : State) : Res := .next (zmapEntries s)
/-- TRANSLATION_COMMAND_RESERVED (R42): nothing is performed; the arrival has BOUND. -/
def translationReserved (s : State) : State :=
  match s.xHead with
  | none => s
  | some x => if x.ok then s else { s with xlq := s.xlq.tail }.xArrive x 2
/-- TRANSLATION_COMMAND_RESERVED (R42). -/
def execTranslationCommandReserved (s : State) : Res := .next (translationReserved s)

end Sys2Proof.Machine
end

