-- ==== Sys2Proof/Machine/Sched.lean ====
section
/-! DEFINITION. Issue-slot arbitration, the grid schedulers, exits, eviction and resumption (R62, R166, R240 to R257, R269,
R270, R273 to R285, R369, R370). -/

namespace Sys2Proof.Machine

/-! Arbitration (R247 to R250). -/

/-- The workgroup is on a core. -/
def Wg.onCore (g : Wg) : Bool := g.place = .resident || g.place = .draining
/-- The warps of a core that hold a place in its slots, with their keys. -/
def State.placedWarps (s : State) (core : Nat) : List (Nat × Warp) :=
  (s.residentWarps core).map fun k => (k, s.warpAt k)
/-- R248: 40 or more of its 48 reorder-buffer entries occupied, or a blocking instruction dispatched and not retired, leave a
warp not ready. A warp that has received a halt notice dispatches nothing beyond its current stint (R295). -/
def Warp.ready (w : Warp) : Bool :=
  w.run = .running && w.sleep.isNone && w.notice.isNone && w.rob.length < 40 && !w.rob.any (·.blocks)
def State.prioOf (s : State) (k : Nat) : Nat := (s.wgAt (wgOf k)).prio
/-- The age key (R249). -/
def State.older (s : State) (a b : Nat) : Bool :=
  let x := s.wgAt (wgOf a)
  let y := s.wgAt (wgOf b)
  x.seq < y.seq || x.seq = y.seq && (x.index < y.index || x.index = y.index && warpNo a < warpNo b)
def State.oldest (s : State) : List Nat → Option Nat
  | [] => none
  | k :: r => match s.oldest r with | none => some k | some j => if s.older k j then some k else some j
/-- The choice of R250 among ready warps: the winner and K after it. -/
def State.choose (s : State) (slot : Slot) (ready : List Nat) : Option (Nat × Nat) :=
  let p := (ready.map s.prioOf).foldl Nat.max 0
  let top := ready.filter fun k => s.prioOf k = p
  let peers := fun x => top.filter (· ≠ x)
  let win := match slot.last with
    | some l =>
      if top.contains l then
        (if (16 ≤ slot.k || (s.warpAt l).yielded) && !(peers l).isEmpty then s.oldest (peers l) else some l)
      else s.oldest top
    | none => s.oldest top
  win.map fun w => (w, if (peers w).isEmpty then 0 else if slot.last = some w then slot.k + 1 else 1)
/-- The yielded marks of a slot end as it arbitrates (R249). -/
def State.unyield (l : List (Nat × Warp)) (s : State) : State :=
  l.foldl (fun s p => s.setWarpAt p.1 { s.warpAt p.1 with yielded := false }) s
/-- ARBITRATE: at a stint boundary of the slot, when it holds no bound warp. -/
def arbitrate (core slot : Nat) (s : State) : State :=
  let here := (s.placedWarps core).filter fun p => p.2.slot = slot
  if here.any fun p => p.2.stint.isSome then s
  else
    let c := s.coreAt core
    let sl : Slot := Tab.get {} slot c.slots
    match s.choose sl ((here.filter fun p => p.2.ready && (s.wgAt (wgOf p.1)).place = .resident).map Prod.fst) with
    | none => s
    | some (k, n) =>
      let s := (s.unyield here).setCoreAt core { c with slots := Tab.put {} slot { last := some k, k := n } c.slots }
      s.setWarpAt k { s.warpAt k with stint := some 0 }
/-- ARBITRATE (R250). -/
def execArbitrate (core slot : Nat) (s : State) : Res := .next (arbitrate core slot s)

/-! Where a workgroup fits (R240, R241, R370). -/

def State.onCore (s : State) (core : Nat) : List Wg :=
  (s.wgs.map Prod.snd).filter fun g => g.onCore && g.core = core
/-- The lowest number below `n` that is not in the list. -/
def lowestFree (n : Nat) (l : List Nat) : Option Nat := (List.range n).find? fun i => !l.contains i
/-- The lowest offset, a multiple of `unit`, of `size` free bytes below `cap`, given the ranges (start, size) in use. -/
def lowestRange (unit cap size : Nat) (used : List (Nat × Nat)) : Option Nat :=
  ((0 :: used.map fun r => (r.1 + r.2 + unit - 1) / unit * unit).foldl (fun best o =>
    if o + size ≤ cap && used.all (fun r => o + size ≤ r.1 || r.1 + r.2 ≤ o) && best.all (fun b => o < b) then some o else best)
    none)
/-- What the four slots of a core hold. -/
def State.slotUses (s : State) (core : Nat) : List SlotUse :=
  let l := s.placedWarps core
  (List.range 4).map fun i =>
    let m := l.filter fun p => p.2.slot = i
    { warps := m.length, regs := (m.map fun p => (s.wgAt (wgOf p.1)).fp.vregs + 40).sum
      width := match m with | p :: _ => (s.wgAt (wgOf p.1)).fp.width | [] => 0 }
/-- A workgroup of this footprint on the core: its owner number, its scratchpad base and its warps' slots, or none. -/
def State.fits (s : State) (core : Nat) (f : Footprint) : Option (Nat × Nat × List Nat) :=
  let l := s.onCore core
  let sum := fun (p : Footprint → Nat) => (l.map fun g => p g.fp).sum
  if 32 ≤ l.length || 64 < sum Footprint.tiles + f.tiles || 16 < sum Footprint.accs + f.accs
    || 1024 < sum Footprint.tags + f.tags || 256 < sum Footprint.coh + f.coh then none
  else
    (lowestFree 32 (l.map Wg.owner)).bind fun owner =>
    (lowestRange 1024 (2 ^ 20) (allocSize f.loc f.warps) (l.map fun g => (g.base, g.alloc))).bind fun base =>
    (assignSlots f.width f.vregs f.warps (s.slotUses core) []).map fun slots => (owner, base, slots)
/-- The first core of a die, from the one after the last placement on, that takes the footprint (R254). -/
def State.findCore (s : State) (die : Nat) (f : Footprint) : Option (Nat × Nat × Nat × List Nat) :=
  (List.range 64).findSome? fun i =>
    let c := 64 * die + ((s.dieAt die).lastCore + 1 + i) % 64
    (s.fits c f).map fun r => (c, r)
/-- The workgroup on its core: each warp in its slot with the lowest free context number (R370). -/
def State.settleWarps (n : Nat) (slots : List Nat) (s : State) : State :=
  slots.zipIdx.foldl (fun (s : State) (p : Nat × Nat) =>
    let k := 32 * n + p.2
    let core := (s.wgAt n).core
    let used := (s.placedWarps core).filterMap fun q =>
      if q.2.slot = p.1 && (wgOf q.1 ≠ n || warpNo q.1 < p.2) then some q.2.wctx else none
    s.setWarpAt k { s.warpAt k with slot := p.1, wctx := (lowestFree 8 used).getD 0 }) s
/-- The scratchpad of an allocation, cleared: zero and without poison or latent errors (R98). -/
def State.clearPad (core base size : Nat) (s : State) : State :=
  let c := s.coreAt core
  s.setCoreAt core { c with
    pad := Tab.delRange base (base + size) c.pad
    poison := c.poison.filter (fun w => 16 * w < base || base + size ≤ 16 * w)
    latent := c.latent.filter (fun e => 16 * e.1 < base || base + size ≤ 16 * e.1) }

/-! The grid schedulers (R253, R254, R269, R273, R284). -/

/-- A grid is unfinished. -/
def Grid.live (g : Grid) : Bool := !g.killed && g.finished < g.fp.grid
def Grid.onDie (g : Grid) (die : Nat) : Bool := g.fp.die = 0 || g.fp.die = die + 1
/-- A resumable workgroup of a grid: which of several R253 does not say, and that it is the lowest-numbered is the model's choice
(log 22). -/
def State.resumable (s : State) (seq : Nat) : Option (Nat × Wg) :=
  s.wgs.find? fun p => p.2.seq = seq && p.2.place = .resumable
/-- The grids runnable on a die with a workgroup to place; none of a context that is being pre-empted. -/
def State.waiting (s : State) (die : Nat) : List (Nat × Grid) :=
  s.grids.filter fun p => p.2.live && p.2.onDie die && (s.ctxAt p.2.ctx).preempt.isNone
    && (p.2.next < p.2.fp.grid || (s.resumable p.1).isSome)
/-- The first in order: priority, highest first, then sequence number. -/
def firstGrid : List (Nat × Grid) → Option (Nat × Grid)
  | [] => none
  | p :: r => match firstGrid r with
    | none => some p
    | some q => if q.2.prio < p.2.prio || q.2.prio = p.2.prio && p.1 < q.1 then some p else some q
/-- A warp at its start (R271), with the asynchronous breakpoint of a grid that stops at entry (R321). -/
def startWarp (f : Footprint) (index j : Nat) (tvb : DWord) (stop : Bool) : Warp :=
  let w : Warp := { exec := wmask f.width, pc := f.entry, tvb := tvb
                    trapQ := if stop then [{ cause := 0x28, pc := 0, async := true }] else [] }
  writeS (writeS (writeS (writeS w 1 f.args) 2 (BitVec.ofNat 64 index)) 3 (BitVec.ofNat 64 j)) 4 (BitVec.ofNat 64 f.grid)
/-- A grid's next workgroup placed on a core. -/
def State.placeNew (q : Nat) (core owner base : Nat) (slots : List Nat) (s : State) : State :=
  let gr := s.gridAt q
  let n := s.nextWg
  let f := gr.fp
  let g : Wg := { seq := q, ctx := gr.ctx, index := gr.next, fp := f, prio := gr.prio, depth := gr.depth, core := core
                  owner := owner, base := base, alloc := allocSize f.loc f.warps
                  cohorts := (List.range f.coh).foldl (fun t k => Tab.put {} k (f.cohortFill k) t) [] }
  let s := ((({ s with nextWg := n + 1 } : State).setWgAt n g).setGridAt q { gr with next := gr.next + 1 }).clearPad core base g.alloc
  let tvb := (s.ctxAt gr.ctx).tvb
  ((List.range f.warps).foldl (fun s j => s.setWarpAt (32 * n + j) (startWarp f g.index j tvb gr.stopAtEntry)) s).settleWarps
    n slots
def State.placedOn (die core : Nat) (s : State) : State := s.setDieAt die { s.dieAt die with lastCore := core % 64 }
/-- PLACE_WORKGROUP: a workgroup that has never been placed, of the first grid in order, when none of its is resumable. -/
def placeWorkgroup (die : Nat) (s : State) : State :=
  if 4 ≤ die then s
  else match firstGrid (s.waiting die) with
  | none => s
  | some (q, gr) =>
    if (s.resumable q).isSome then s
    else match s.findCore die gr.fp with
    | none => s
    | some (core, owner, base, slots) => (s.placeNew q core owner base slots).placedOn die core
/-- PLACE_WORKGROUP (R253). -/
def execPlaceWorkgroup (die : Nat) (s : State) : Res := .next (placeWorkgroup die s)

/-- A workgroup number that names a workgroup. -/
def State.hasWg (s : State) (n : Nat) : Bool := s.wgs.any fun p => p.1 = n
/-- A grid becomes runnable and gets its sequence number (R249). -/
def State.newGrid (g : Grid) (s : State) : State := ({ s with nextSeq := s.nextSeq + 1 } : State).setGridAt s.nextSeq g
/-- A debugger has stopped the warp (R288, R321). -/
def Warp.stopped (w : Warp) : Bool := match w.run with | .halted _ true => true | _ => false
/-- A grid is stopped while a debugger is attached to its context and a warp of it is stopped (R354). -/
def State.gridStopped (s : State) (seq : Nat) : Bool :=
  s.wgs.any fun p => p.2.seq = seq && (s.ctxAt p.2.ctx).debugger.isSome && (p.2.keys p.1).any fun k => (s.warpAt k).stopped
/-- Padded with zeros to a size. -/
def zeros (n : Nat) : List Byte := List.replicate n 0
def padTo (n : Nat) (b : List Byte) : List Byte := (b ++ zeros (n - b.length)).take n
/-- A queue entry as saved: the record, the map, 8 zero bytes (R279). -/
def LaunchEntry.save (e : LaunchEntry) : List Byte :=
  padTo 64 e.raw ++ padTo 120 (e.map.flatMap fun m => leBytes 8 m.toNat) ++ zeros 8
/-- The queue as saved, QUEUE of R279. -/
def Wg.queueBytes (g : Wg) : List Byte := padTo 768 (g.launchQ.flatMap LaunchEntry.save)
/-- The location of an eviction area. -/
def State.areaKey (s : State) (g : Wg) : Nat := memKey 0 ((s.ctxAt g.ctx).evp + (g.area.map Prod.fst).getD 0)
/-- The saved queue of an evicted workgroup follows its pending-launch queue (R281). -/
def State.saveQueue (n : Nat) (s : State) : State :=
  let g := s.wgAt n
  if g.place = .evicted ∨ g.place = .resumable then
    (s.writeMem (s.areaKey g + 27) (leBytes 1 g.launchQ.length)).writeMem (s.areaKey g + 64) g.queueBytes
  else s
/-- TAKE_LAUNCH_ENTRY (R273): 256 clocks after its push and after the last take from its queue; none from a workgroup of a
stopped grid (R354). -/
def takeLaunchEntry (n : Nat) (s : State) : State :=
  let g := s.wgAt n
  match g.launchQ with
  | [] => s
  | e :: r =>
    let now := g.clk s
    if (s.ctxAt g.ctx).preempt.isSome || s.gridStopped g.seq || now < e.push + 256 || g.lastTake.any (fun t => now < t + 256)
    then s
    else ((s.setWgAt n { g with launchQ := r, lastTake := some now }).saveQueue n).newGrid
      { ctx := g.ctx, depth := g.depth + 1, prio := e.fp.prio, fp := e.fp, parent := some g.seq }
/-- `m` clocks of a core pass for the queues of a stopped grid without counting (R354). -/
def State.holdQueues (core m : Nat) (s : State) : State :=
  { s with wgs := s.wgs.map fun p => if p.2.core = core && s.gridStopped p.2.seq then
      (p.1, { p.2 with launchQ := p.2.launchQ.map (fun e => { e with push := e.push + m }), lastTake := p.2.lastTake.map (· + m) })
    else p }
/-- TAKE_LAUNCH_ENTRY (R273). -/
def execTakeLaunchEntry (wg : Nat) (s : State) : Res := .next (takeLaunchEntry wg s)

/-! Exits (R62, R257, R270, R272, R285, R369). -/

/-- A command that workgroup `n` issued has not arrived, or one of its reductions has not performed. -/
def State.outstanding (s : State) (n : Nat) : Bool :=
  let g := s.wgAt n
  let c := s.coreAt g.core
  (c.queues.any fun q => q.2.any fun m => m.wg = n) || (c.bank.any fun b => b.by.1 = n) || (c.matq.any fun m => m.wg = n)
    || ((s.dieAt (g.core / 64)).decoders.any fun d => d.2.queue.any (·.wg = n) || d.2.active.any fun a => a.1.wg = n)
    || ((s.ctxAt g.ctx).setCmds.any fun m => m.wg = n) || s.reds.any fun r => r.wg = n
/-- A SIGNAL_LOST record (R300, R369); the unit of a word that does not translate is free. -/
def State.signalLost (g : Wg) (index : Nat) (va : DWord) (unit : Option Nat) (s : State) : State :=
  let (x, s) := s.fresh
  s.errRecord g.ctx { kind := 7, unit := unit.getD (4 * 2 ^ 12 + x.toNat % 4 * 2 ^ 8 + x.toNat / 4 % 32), seq := g.seq
                      index := index, addr2 := va }
/-- The update of a word, lost where it does not translate. -/
def State.signalUpdate (g : Wg) (index : Nat) (va : DWord) (f : Nat → Nat) (s : State) : State :=
  if va = 0 then s
  else match s.signalTo g.ctx va with
  | .key k => s.signalWord k f
  | .lost unit => s.signalLost g index va unit
  | .wait => s
def setBit (i v : Nat) : Nat := v ||| 2 ^ i
/-- The counter minus one. -/
def decWord (v : Nat) : Nat := (v + 2 ^ 64 - 1) % 2 ^ 64
/-- The bitmap's word of a workgroup. -/
def Wg.bitVa (g : Wg) : DWord := if g.fp.bitmap = 0 then 0 else g.fp.bitmap + BitVec.ofNat 64 (8 * (g.index / 64))
/-- An update waits for a migration. -/
def State.signalWaits (s : State) (ctx : Nat) (va : DWord) : Bool := va ≠ 0 && s.signalTo ctx va = .wait
/-- The counter of a grid whose last exit has finished is decremented, once its word's walk meets no migration (R270, R369). -/
def State.payCounter (n : Nat) (s : State) : State :=
  let g := s.wgAt n
  let gr := s.gridAt g.seq
  if !gr.owes || s.signalWaits g.ctx g.fp.counter then s
  else (s.setGridAt g.seq { gr with owes := false }).signalUpdate g 0xFFFFFFFF g.fp.counter decWord
/-- WORKGROUP_EXIT_FINISH: a workgroup whose warps have all exited, unless it was reported halted (R296), or of a killed grid,
leaves its core once every command has arrived; the bitmap bit is set, and after the grid's last exit the counter is
decremented. Each word waits for its own walk alone. That the exit itself waits with its bit, and that an owed decrement is made
by the step taken again, is the model's choice (log 21). -/
def exitFinish (n : Nat) (s : State) : State :=
  let g := s.wgAt n
  let gr := s.gridAt g.seq
  let all := fun (p : Run → Bool) => (g.keys n).all fun k => p (s.warpAt k).run
  if !s.hasWg n then s
  else if g.place = .finished then s.payCounter n
  else if !g.onCore || s.outstanding n then s
  else if gr.killed then (if all (fun r => !r.live) then s.setWgAt n { g with place := .finished, area := none } else s)
  else if g.place ≠ .resident || g.reported || !all (fun r => r = .exited) || !g.launchQ.isEmpty || s.signalWaits g.ctx g.bitVa
    then s
  else
    let last : Bool := gr.finished + 1 = gr.fp.grid
    let s := (s.setWgAt n { g with place := .finished }).setGridAt g.seq
      { gr with finished := gr.finished + 1, owes := last && g.fp.counter ≠ 0 }
    (s.signalUpdate g g.index g.bitVa (setBit (g.index % 64))).payCounter n
/-- WORKGROUP_EXIT_FINISH (R62). -/
def execWorkgroupExitFinish (wg : Nat) (s : State) : Res := .next (exitFinish wg s)

/-! The save layouts (R166, R278 to R280). -/

def ceilTo (n m : Nat) : Nat := (n + m - 1) / m * m
/-- A register's data in a save area. -/
def VReg.save (width : Nat) : VReg → List Byte
  | .uni u => leBytes 4 u.toNat
  | .aff b s => leBytes 4 b.toNat ++ leBytes 4 s.toNat
  | .gen ls => (List.range width).flatMap fun l => leBytes 4 (ls.getD l 0).toNat
def Tag.code : Tag → Nat | .uni => 0 | .aff => 1 | .gen => 2
/-- A warp's state as saved (R166); its own registers, whatever its mode. The saved PC of a warp that has exited, which no rule
gives, is its EXIT's own address: the model's choice (log 22). -/
def Warp.save (w : Warp) (f : Footprint) : List Byte :=
  let v := fun k => Tab.get (VReg.uni 0) k w.v
  let tags := (List.range 64).foldl (fun n k => n + (if k < f.vregs then (v k).tag.code else 3) * 4 ^ k) 0
  let data := (List.range f.vregs).flatMap fun k => (v k).save f.width
  leBytes 16 tags ++ data ++ zeros (ceilTo data.length 8 - data.length)
    ++ ((List.range 64).flatMap fun k => leBytes 8 (if k = 0 then 0 else (Tab.get (0 : DWord) k w.s).toNat))
    ++ leBytes 8 w.exec.toNat ++ leBytes 8 w.fmode.toNat ++ leBytes 8 w.pc.toNat
/-- Bytes of a warp's slot, and of the whole area (R278). -/
def Footprint.warpArea (f : Footprint) : Nat := ceilTo (552 + 4 * f.width * f.vregs) 64
def Wg.areaSize (g : Wg) : Nat :=
  2048 + ceilTo (8 * g.fp.tags) 64 + g.fp.warps * (256 + g.fp.warpArea) + 16384 * g.fp.accs + g.alloc
/-- A footprint's width code. -/
def Footprint.widthCode (f : Footprint) : Nat := if f.width = 16 then 0 else if f.width = 32 then 1 else 2
/-- A cohort entry in the layout of R244, OWNER as given. -/
def Cohort.bytes (e : Cohort) (k owner : Nat) : List Byte :=
  leBytes 8 (e.members.toNat + 2 ^ 32 * e.arrived.toNat)
    ++ leBytes 8 (2 ^ 59 * owner + 2 ^ 58 + 2 ^ 49 * k + (if e.phase then 2 ^ 48 else 0) + 2 ^ 44 * e.pop)
    ++ leBytes 8 e.payload.toNat
/-- The header (R279). -/
def Wg.header (g : Wg) : List Byte :=
  padTo 64 (leBytes 8 g.seq ++ leBytes 4 g.index ++ leBytes 1 g.fp.warps ++ leBytes 1 (g.fp.widthCode + 4 * g.fp.die)
      ++ leBytes 1 g.prio ++ leBytes 1 g.depth ++ leBytes 4 g.alloc ++ leBytes 2 g.fp.tags ++ leBytes 1 g.fp.tiles
      ++ leBytes 1 g.fp.accs ++ leBytes 1 g.fp.coh ++ leBytes 1 g.fp.vregs ++ leBytes 1 g.fp.sregs ++ leBytes 1 g.launchQ.length)
    ++ g.queueBytes
    ++ padTo 384 ((List.range g.fp.coh).flatMap fun k => (g.cohort k).bytes k 0)
    ++ ((List.range 16).flatMap fun k => leBytes 8 ((g.tile k).word 0).toNat) ++ zeros 704
/-- KIND of a warp at a blocking point or exited (R280). -/
def Run.kind : Run → Nat
  | .bar .. => 1 | .await .. => 2 | .bwait .. => 3 | .join .. => 4 | .launch .. => 5 | .ldf => 6 | _ => 0
/-- A warp control block (R280). -/
def Warp.control (w : Warp) : List Byte :=
  let (arg, addr, value) : Nat × DWord × DWord := match w.run with
    | .bar c _ => (c, 0, 0)
    | .await off ph => (if ph then 1 else 0, off, 0)
    | .bwait a i => (0, bitWord a i, BitVec.ofNat 64 (i.toNat % 64))
    | .join a => (0, a, 0)
    | .launch _ a => (0, a, 0)
    | _ => (0, 0, 0)
  let (raw, map) := match w.run with | .launch e _ => (e.raw, e.map) | _ => ([], [])
  padTo 32 (leBytes 1 w.run.kind ++ leBytes 1 arg ++ zeros 6 ++ leBytes 8 addr.toNat ++ leBytes 8 value.toNat)
    ++ padTo 64 raw ++ padTo 120 (map.flatMap fun m => leBytes 8 m.toNat) ++ leBytes 8 w.tvb.toNat ++ zeros 32
/-- The tag partition as saved. Which entry lies at which place is the model's choice: the valid ones first, in the order in which
they were installed, and zeros for the others (log 22). -/
def Wg.tagBytes (g : Wg) : List Byte :=
  padTo (ceilTo (8 * g.fp.tags) 64) (g.tags.flatMap fun e => leBytes 8 (2 ^ 63 + 2 ^ 32 * e.slot.toNat + e.key.toNat))
/-- Everything before the scratchpad. The bytes of a warp's slot past its save area are zeros, by the model's choice (log 22). -/
def State.areaBytes (n : Nat) (s : State) : List Byte :=
  let g := s.wgAt n
  g.header ++ g.tagBytes
    ++ ((g.keys n).flatMap fun k => (s.warpAt k).control ++ padTo g.fp.warpArea ((s.warpAt k).save g.fp))
    ++ (List.range (4096 * g.fp.accs)).flatMap fun i => leBytes 4 (Tab.get (0 : Word) i g.accs).toNat

/-! Eviction (R275 to R277). -/

/-- Blocked at a blocking point (R248, R259): at a LAUNCH, while the queue is full. -/
def Warp.atBlock (full : Bool) (w : Warp) : Bool :=
  !w.handler && match w.run with | .bar .. => true | r => r.abandons full
/-- The ranges of the context's pool in use. -/
def State.poolUsed (s : State) (ctx : Nat) : List (Nat × Nat) :=
  s.wgs.filterMap fun p => if p.2.ctx = ctx && p.2.place ≠ .finished then p.2.area else none
/-- The lowest free range of the context's pool. -/
def State.poolRange (s : State) (g : Wg) : Option (Nat × Nat) :=
  let size := ceilTo g.areaSize 4096
  (lowestRange 4096 (s.ctxAt g.ctx).evpsz size (s.poolUsed g.ctx)).map fun o => (o, size)
/-- R275, the pool apart. -/
def State.evictable (n : Nat) (s : State) : Bool :=
  let g := s.wgAt n
  let ws := (g.keys n).map s.warpAt
  g.place = .resident && ws.all (fun w => w.trapQ.isEmpty && (w.atBlock g.full || w.run = .exited)) && ws.any (Warp.atBlock g.full)
/-- A grid of higher priority has a workgroup to place that fits on no core of the die (R276 (b)). -/
def State.crowded (s : State) (die prio : Nat) : Bool :=
  (s.waiting die).any fun p => prio < p.2.prio && (s.findCore die p.2.fp).isNone
/-- R276. -/
def State.evictionDue (n : Nat) (s : State) : Bool :=
  let g := s.wgAt n
  ((g.keys n).any fun k => match (s.warpAt k).run with | .join _ => true | .launch .. => g.full | _ => false)
    || s.crowded (g.core / 64) g.prio || (s.ctxAt g.ctx).preempt.isSome
/-- EVICTION_START: the workgroup drains; its range of the pool is taken. -/
def evictionStart (n : Nat) (s : State) : State :=
  let g := s.wgAt n
  if !s.hasWg n || !s.evictable n || !s.evictionDue n || (s.gridAt g.seq).killed then s
  else match s.poolRange g with
  | none => s
  | some r => s.setWgAt n { g with place := .draining, area := some r }
/-- EVICTION_START (R276). -/
def execEvictionStart (wg : Nat) (s : State) : Res := .next (evictionStart wg s)
/-- The poisoned words of an allocation, by local offset ÷ 16. -/
def State.padPoisons (s : State) (g : Wg) : List Nat :=
  ((s.coreAt g.core).poison.filter fun w => g.base ≤ 16 * w && 16 * w < g.base + g.alloc).map (· - g.base / 16)
/-- EVICTION_SAVE: after the drain the state is written to the eviction area and the core's resources are released. -/
def evictionSave (n : Nat) (s : State) : State :=
  let g := s.wgAt n
  if g.place ≠ .draining || s.outstanding n || (s.gridAt g.seq).killed then s
  else
    let s := s.verify g.core g.base g.alloc
    let pad := s.padRead g.core g.base g.alloc
    let at_ := s.areaKey g
    let head := s.areaBytes n
    let s := (s.writeMem at_ head).writeMem (at_ + head.length) pad
    s.setWgAt n { g with
      place := if g.woken then .resumable else .evicted
      woken := false
      saved := (Tab.range g.base (g.base + g.alloc) (s.coreAt g.core).pad).map fun p => (p.1 - g.base, p.2)
      savedPoison := s.padPoisons g }
/-- EVICTION_SAVE (R277). -/
def execEvictionSave (wg : Nat) (s : State) : Res := .next (evictionSave wg s)

/-! Resumption (R281, R282). -/

/-- A warp's wake condition. -/
def State.wakes (s : State) (g : Wg) (w : Warp) : Bool :=
  let word := fun va (done : Nat → Bool) => match s.watch noCore g.ctx va with | .word v => done v | _ => false
  match w.run with
  | .await off ph =>
    (if g.onCore then s.phaseAt g off.toNat
      else if g.savedPoison.contains (off.toNat / 16) then Config.poisonPhase s.free (off.toNat / 16)
      else (leNat (Tab.getN (0 : Byte) off.toNat 8 g.saved)).testBit 56) ≠ ph
  | .bwait a i => word (bitWord a i) (bitDone i)
  | .join a => word a joinDone
  | .ldf => true
  | .launch .. => g.launchQ.length < 4
  | _ => false
/-- The banks verify the objects that the waiting warps of a workgroup on a core watch (R96). -/
def State.verifyWatched (n : Nat) (s : State) : State :=
  let g := s.wgAt n
  if g.onCore then (g.keys n).foldl (fun s k =>
    match (s.warpAt k).run with | .await off _ => s.verify g.core (g.base + off.toNat) 8 | _ => s) s
  else s
/-- WORKGROUP_RESUMABLE: the wake condition of a warp holds; during the eviction, that is remembered until its end (R276). -/
def workgroupResumable (n : Nat) (s : State) : State :=
  let g := s.wgAt n
  let s := if g.place = .draining then s.verifyWatched n else s
  if !(g.keys n).any fun k => s.wakes g (s.warpAt k) then s
  else match g.place with
  | .evicted => s.setWgAt n { g with place := .resumable }
  | .draining => s.setWgAt n { g with woken := true }
  | _ => s
/-- WORKGROUP_RESUMABLE (R281). -/
def execWorkgroupResumable (wg : Nat) (s : State) : Res := .next (workgroupResumable wg s)
/-- A warp as it proceeds: at AWAIT, BWAIT, JOIN and LDF it executes its instruction afresh; an asynchronous entry abandons a
LAUNCH on a full queue as well (R291). The handler's registers read zero (R294). -/
def Warp.resumed (full : Bool) (w : Warp) : Warp :=
  let w := { w with hs := [], hv := [], fetched := [], held := none }
  match w.run with
  | .await .. | .bwait .. | .join _ | .ldf => { w with run := .running }
  | .launch .. => if full && !w.trapQ.isEmpty then { w with run := .running } else w
  | _ => w
/-- A clock reading carried to another core: its age is kept, as far as the new clock reaches back (log 7). -/
def rebase (old new t : Nat) : Nat := new - (old - t)
/-- RESUME_WORKGROUP: a resumable workgroup of the first grid in order is placed and restored. -/
def resumeWorkgroup (die : Nat) (s : State) : State :=
  if 4 ≤ die then s
  else match (firstGrid (s.waiting die)).bind fun p => s.resumable p.1 with
  | none => s
  | some (n, g) =>
    match s.findCore die g.fp with
    | none => s
    | some (core, owner, base, slots) =>
      let old := g.clk s
      let new := (s.coreAt core).clk
      let g' := { g with
        place := .resident, core := core, owner := owner, base := base, area := none, saved := [], savedPoison := []
        launchQ := g.launchQ.map (fun e => { e with push := rebase old new e.push })
        lastTake := g.lastTake.map (rebase old new) }
      let s := (s.clearPad core base g.alloc).setWgAt n g'
      let c := s.coreAt core
      let s := s.setCoreAt core { c with
        pad := g.saved.foldl (fun t p => Tab.put 0 (base + p.1) p.2 t) c.pad
        poison := c.poison ++ g.savedPoison.map (· + base / 16) }
      let s := (g.keys n).foldl (fun s k => s.setWarpAt k ((s.warpAt k).resumed g.full)) s
      (s.settleWarps n slots).placedOn die core
/-- RESUME_WORKGROUP (R282). -/
def execResumeWorkgroup (die : Nat) (s : State) : Res := .next (resumeWorkgroup die s)

end Sys2Proof.Machine
end

