-- ==== Sys2Proof/Machine/System.lean ====
section
/-! DEFINITION. Traps raised by the word itself, the system instructions, and the steps of trap delivery and the halt
controller (R12, R26, R27, R286 to R314). -/

namespace Sys2Proof.Machine

/-! Words that trap (R26 to R28). -/

/-- A trap of the word itself: the lanes are exec, the address is the PC. -/
def wordTrap (cause : Byte) (s : State) : State := s.raiseW cause s.warp.pc
/-- ILLEGAL_LENGTH (R12). -/
def execIllegalLength (_ : Word) (s : State) : Res := .next (wordTrap 0x01 s)
/-- UNDEFINED_OPCODE (R26). -/
def execUndefinedOpcode (_ _ _ : Word) (s : State) : Res := .next (wordTrap 0x02 s)
/-- EMULATED_OPCODE (R27). -/
def execEmulatedOpcode (_ _ _ : Word) (s : State) : Res := .next (wordTrap 0x05 s)

/-! TRAP, BKPT, RETT (R309, R310). -/

def trapOp (cause : Byte) (o : Opd) (s : State) : State := s.raiseW cause (sval s.warp o.a)
def rettOp (_ : Opd) (s : State) : State :=
  let t := s.warp.tpc
  if t.toNat % 4 ≠ 0 then s.raiseW 0x0A t
  else if !canonical t then s.raiseW 0x0B t
  else (s.setWarp { s.warp with notice := s.warp.notice.map (· + 1) }).leaveHandler s.cur t

/-! MOVFA, MOVTA (R311). -/

/-- The index, below the kernel's count of its class. -/
def archGate (scalar : Bool) (o : Opd) (k : Nat → State → State) (s : State) : State :=
  let i := (sval s.warp o.a).toNat % 2 ^ 32
  if (if scalar then s.wg.fp.sregs else s.wg.fp.vregs) ≤ i then s.refuse 0x03 i else k i s
/-- The interrupted warp's registers. -/
def archS (w : Warp) (i : Nat) : DWord := if i = 0 then 0 else Tab.get 0 i w.s
def archV (w : Warp) (i : Nat) : VReg := Tab.get (.uni 0) i w.v
def setArchS (w : Warp) (i : Nat) (v : DWord) : Warp := if i = 0 then w else { w with s := Tab.put 0 i v w.s }
def setArchV (w : Warp) (i : Nat) (v : VReg) : Warp := { w with v := Tab.put (.uni 0) i v w.v }
def movfaOp (scalar : Bool) (o : Opd) : State → State := archGate scalar o fun i s =>
  s.done o (if scalar then writeS s.warp o.d (archS s.warp i) else writeV s.warp o.d (archV s.warp i))
def movtaOp (scalar : Bool) (o : Opd) : State → State := archGate scalar o fun i s =>
  let r := BitVec.ofNat 6 (numOf o.b)
  s.done o (if scalar then setArchS s.warp i (readS s.warp r) else setArchV s.warp i (readV s.warp r))

/-! SYSR, SYSW, ICINV (R312 to R314). -/

def sysValue (r : SysReg) (s : State) : DWord :=
  let w := s.warp
  match r with
  | .fmode => w.fmode
  | .clk => BitVec.ofNat 64 s.core.clk
  | .tvb => w.tvb
  | .tpc => w.tpc
  | .texec => w.texec
  | .wloc => BitVec.ofNat 64 (2 ^ 16 * (s.wg.core / 64) + 2 ^ 8 * (s.wg.core % 64) + 2 ^ 4 * w.slot + w.wctx)
  | .cerr => s.core.cerr
  | .tqd => BitVec.ofNat 64 w.trapQ.length
def sysrOp (r : SysReg) (o : Opd) (s : State) : State := s.done o (writeS s.warp o.d (sysValue r s))
/-- The warp with a system register written, or none where the value is illegal. A read-only register is refused at decode. -/
def sysWrite (r : SysReg) (width : Nat) (v : DWord) (w : Warp) : Option Warp :=
  match r with
  | .fmode => if v.toNat < 8 then some { w with fmode := v } else none
  | .tvb => if canonical v && v.toNat % 2048 = 0 then some { w with tvb := v } else none
  | .tpc => some { w with tpc := v }
  | .texec => some { w with texec := v &&& wmask width }
  | _ => none
def syswOp (r : SysReg) (o : Opd) (s : State) : State :=
  match sysWrite r s.width (sval s.warp o.a) s.warp with
  | some w => s.done o w
  | none => wordTrap 0x03 s
/-- ICINV: the core's instruction caches lose the context's lines, and no line taken in before it serves a later fetch of the
warp, on any core; the warp's own reductions have performed. Nothing is fetched after it before it has retired. -/
def icinvOp (o : Opd) (s : State) : State :=
  let s := s.flushReds s.cur
  let s := { s with icinvs := s.icinvs + 1 }.dropCode s.wg.core s.wg.ctx
  (s.setWarp { s.warp with icinv := s.icinvs }).retire o

/-! Steps of delivery (R289 to R297). -/

/-- An asynchronous event for a warp: queued; a warp of an evicted workgroup receives it on resumption (R321). -/
def State.asyncTo (k : Nat) (cause : Byte) (detail : DWord) (s : State) : State :=
  let g := s.wgAt (wgOf k)
  if !s.hasWg (wgOf k) || g.fp.warps ≤ warpNo k || g.place = .finished then s else s.asyncEntry k cause detail
/-- ASYNC_TRAP_EVENT (R289): only causes 0x28 and 0x39 arise so (R286). -/
def asyncTrapEvent (k : Nat) (cause : Byte) (detail : DWord) (s : State) : State :=
  if cause = 0x28 ∨ cause = 0x39 then s.asyncTo k cause detail else s
/-- The next instruction to execute is the first of a stint (R289). -/
def Warp.atBoundary (w : Warp) : Bool := match w.rob with | e :: _ => e.first | [] => w.stint.all (· = 0)
/-- TRAP_DELIVER (R292): a synchronous fault at once, an asynchronous entry at a stint boundary. -/
def trapDeliver (k : Nat) (s : State) : State :=
  let w := s.warpAt k
  if (s.wgAt (wgOf k)).place ≠ .resident then s
  else match w.trapQ.head? with
  | none => s
  | some e =>
    if e.async && (!w.atBoundary || w.sleep.isSome) then s
    else (s.setWarpAt k { w with stall := if w.stall = some .migrate then none else w.stall }).deliver k
/-- No dispatched instruction of the warp is left: its stint is over and its reorder buffer empty (R295). -/
def Warp.spent (w : Warp) : Bool := w.stint.isNone && w.rob.isEmpty
/-- SIBLING_HALT_STOP (R295, R296): a warp told to halt stops once nothing dispatched is left, at its 32nd instruction, or at
an instruction that waits before its dispatch (log 28). -/
def siblingHaltStop (k : Nat) (s : State) : State :=
  let w := s.warpAt k
  match w.notice with
  | none => s
  | some n => if w.spent || 32 ≤ n || (w.stall.isSome && w.rob.isEmpty) || w.run ≠ .running then s.haltStop k 0 else s

/-- TRAP (R309). -/
def execTrap (f : Ops) (s : State) : Res := .next (trapOp 0x29 (opd f) s)
/-- BKPT (R309). -/
def execBkpt (f : Ops) (s : State) : Res := .next (trapOp 0x28 (opd f) s)
/-- RETT (R310). -/
def execRett (f : Ops) (s : State) : Res := .next (rettOp (opd f) s)
/-- MOVFA (R311). -/
def execMovfa (f : Ops) (cls : Bool) (s : State) : Res := .next (movfaOp cls (opd f) s)
/-- MOVTA (R311). -/
def execMovta (f : Ops) (cls : Bool) (s : State) : Res := .next (movtaOp cls (opd f) s)
/-- SYSR (R312). -/
def execSysr (f : Ops) (r : SysReg) (s : State) : Res := .next (sysrOp r (opd f) s)
/-- SYSW (R312). -/
def execSysw (f : Ops) (r : SysReg) (s : State) : Res := .next (syswOp r (opd f) s)
/-- ICINV (R314). -/
def execIcinv (f : Ops) (s : State) : Res := .next (icinvOp (opd f) s)
/-- ASYNC_TRAP_EVENT (R289). -/
def execAsyncTrapEvent (k : Nat) (cause : Byte) (detail : DWord) (s : State) : Res := .next (asyncTrapEvent k cause detail s)
/-- TRAP_DELIVER (R292). -/
def execTrapDeliver (k : Nat) (s : State) : Res := .next (trapDeliver k s)
/-- SIBLING_HALT_STOP (R296). -/
def execSiblingHaltStop (k : Nat) (s : State) : Res := .next (siblingHaltStop k s)

end Sys2Proof.Machine
end

