-- ==== Sys2Proof/Machine/Fabric.lean ====
section
/-! DEFINITION. Engine faults and releases, peer ingress, boot, attestation, freeze and thermal limits (R103, R300, R303,
R305, R322, R324 to R327). -/

namespace Sys2Proof.Machine

/-! Frozen masters (R303). -/

/-- The fields of a UNIT number (R301). -/
def unitKind (u : BitVec 16) : Nat := u.toNat / 2 ^ 12
def unitDie (u : BitVec 16) : Nat := u.toNat / 2 ^ 8 % 16
def unitNo (u : BitVec 16) : Nat := u.toNat % 2 ^ 8
/-- A unit that is a copy engine, a decoder or a slice. -/
def isMaster (u : BitVec 16) : Bool :=
  unitDie u < 4 && (unitKind u = 1 && unitNo u < 12 || unitKind u = 2 && unitNo u < 4 || unitKind u = 3 && unitNo u < 8)
def State.freezeUnit (u : BitVec 16) (s : State) : State :=
  let d := s.dieAt (unitDie u)
  s.setDieAt (unitDie u) { d with frozen := d.frozen ++ [u] }
/-- A free engine holds the earliest eligible command of its die, unperformed. -/
def State.holdNext (die engine : Nat) (s : State) : State :=
  if s.engineBusy die engine then s
  else match earliest (s.eligible die) with
  | none => s
  | some (_, core, q) => match s.queue core q with
    | [] => s
    | c :: _ => s.setHead core q { c with engine := some engine }
/-- The set command of a context whose home is the slice: the first one. -/
def Ctx.sliceCmd (c : Ctx) (home : Nat) : Option SetCmd := c.setCmds.find? fun m => c.cmdHome m = home
/-- The workgroup whose command a master holds. -/
def State.heldWg (s : State) (u : BitVec 16) : Option Nat :=
  if unitKind u = 1 then
    ((List.range 64).flatMap fun c => (List.range 8).flatMap fun q =>
      (s.queue (64 * unitDie u + c) q).filter (Cmd.heldBy (unitNo u))).head?.map Cmd.wg
  else if unitKind u = 2 then
    let d := s.decoderAt (unitDie u) (unitNo u)
    ((d.active.toList.map Prod.fst) ++ d.queue).head?.map DecRec.wg
  else (s.ctxs.findSome? fun c => c.2.sliceCmd (8 * unitDie u + unitNo u)).map SetCmd.wg
/-- ENGINE_FAULT: the master freezes in place with a FROZEN record in the error page of the context whose command it holds
(log 17). -/
def engineFault (u : BitVec 16) (addr : DWord) (s : State) : State :=
  if !isMaster u || s.isFrozen (unitDie u) u then s
  else
    let s := if unitKind u = 1 then s.holdNext (unitDie u) (unitNo u) else s
    let s := s.freezeUnit u
    match s.heldWg u with
    | none => s
    | some n =>
      let g := s.wgAt n
      s.errRecord g.ctx { kind := 5, unit := u.toNat, seq := g.seq, index := g.index, addr1 := addr }
/-- ENGINE_FAULT (R303). -/
def execEngineFault (unit : BitVec 16) (addr : DWord) (s : State) : Res := .next (engineFault unit addr s)

/-! The release. -/

/-- The commands of one engine arrive with their full count and POISON; what they had not written is dropped. -/
def releaseEngine (die engine : Nat) (s : State) : State :=
  (List.range 64).foldl (fun s c => (List.range 8).foldl (fun s q =>
    match s.queue (64 * die + c) q with
    | h :: _ => if h.heldBy engine then s.finishHead (64 * die + c) q h (h.flags ||| 4) else s
    | [] => s) s) s
/-- The remaining frames of a record arrive with POISON. -/
def releaseRecord (r : DecRec) (from_ : Nat) (s : State) : State :=
  let g := s.wgAt r.wg
  (List.range (r.frames - from_)).foldl (fun s _ => s.arrive g.core (g.base + r.arv) r.window 4) s
def releaseDecoder (die i : Nat) (s : State) : State :=
  let d := s.decoderAt die i
  let s := s.setDecoderAt die i { d with active := none, queue := [] }
  let s := match d.active with | some (r, f) => releaseRecord r f s | none => s
  d.queue.foldl (fun s r => releaseRecord r 0 s) s
/-- A context's commands on a slice arrive with POISON and leave. -/
def releaseSlice (home ctx : Nat) (s : State) : State :=
  let c := s.ctxAt ctx
  let held := fun m => c.cmdHome m = home
  let s := s.setCtxAt ctx { c with setCmds := c.setCmds.filter (fun m => !held m) }
  (c.setCmds.filter held).foldl (fun s m =>
    let g := s.wgAt m.wg
    s.arrive g.core (g.base + m.obj) m.kind.count 4) s
/-- An arrival on an ingress object, if it lies in a scratchpad (R320). -/
def State.ingressArrive (core loff n : Nat) (f : BitVec 3) (s : State) : State :=
  if core < 256 ∧ loff % 16 = 0 ∧ loff + 16 ≤ 2 ^ 20 then s.arrive core loff n f else s
/-- A peer ingress port goes on: the command that it held arrives with its full count and POISON. -/
def releasePort (port : Nat) (s : State) : State :=
  (s.portHeld.filter (·.port = port)).foldl (fun s h => s.ingressArrive h.core h.loff h.count 4)
    { s with portsFrozen := s.portsFrozen.filter (· ≠ port), portHeld := s.portHeld.filter (·.port ≠ port) }
/-- ENGINE_MASTER_RELEASE (R303). -/
def masterRelease (u : BitVec 16) (s : State) : State :=
  let die := unitDie u
  if unitKind u = 5 then releasePort (unitNo u) s
  else if !s.isFrozen die u then s
  else
    let d := s.dieAt die
    let s := s.setDieAt die { d with frozen := d.frozen.filter (· ≠ u) }
    match unitKind u with
    | 1 => releaseEngine die (unitNo u) s
    | 2 => releaseDecoder die (unitNo u) s
    | _ => (Tab.keys s.ctxs).foldl (fun s c => releaseSlice (8 * die + unitNo u) c s) s
/-- ENGINE_MASTER_RELEASE (R303). -/
def execEngineMasterRelease (unit : BitVec 16) (s : State) : Res := .next (masterRelease unit s)

/-! Peer ingress (R320, R322). -/

/-- Little-endian bytes `i` to `i + n − 1` of a table's entry. -/
def entryField (t : Tab Byte) (base i n : Nat) : Nat := leNat (Tab.getN 0 (base + i) n t)
/-- An ingress port freezes and holds its command, with a FROZEN record for the context that the entry names. -/
def State.freezePort (port ctx : Nat) (addr : DWord) (held : Option HeldIngress) (s : State) : State :=
  let s := { s with portsFrozen := s.portsFrozen ++ [port], portHeld := s.portHeld ++ held.toList }
  if (s.ctxAt ctx).registered then s.errRecord ctx { kind := 5, unit := 0x5400 + port, addr1 := addr } else s
/-- PEER_INGRESS_COMMAND: the bytes are written to the exported range at `off` under the context's translation, and arrive
with their count; a write that the entry, its key, its range or the translation does not permit freezes the port. -/
def peerIngress (port entry : Nat) (key : Word) (off : Nat) (bytes : List Byte) (s : State) : State :=
  let b := 32 * entry
  let f := entryField s.exportTable b
  let ctx := f 0 4
  let va : DWord := BitVec.ofNat 64 (f 8 8 + off)
  let live : Bool := entry < 1024 && f 30 1 % 2 = 1
  let held := if live then some (⟨port, f 24 2, f 26 4, bytes.length⟩ : HeldIngress) else none
  if 4 ≤ port || s.portsFrozen.contains port || bytes.isEmpty then s
  else if !live || f 4 4 ≠ key.toNat || f 16 8 < off + bytes.length then
    s.freezePort port (if 1024 ≤ entry then 2 ^ 32 else ctx) va held
  else match s.translateUnits noCore ctx ⟨va, bytes.length, [.engWrite], 4⟩ (va.toNat / 2 ^ 19)
      (⟨va, bytes.length, [.engWrite], 4⟩ : GRange).units [] with
  | .wait => s
  | .bad _ => s.freezePort port ctx va held
  | .ok x =>
    let s := s.capture ctx (16 + bytes.length)
    let s := s.engWrite x va.toNat (bytes.map fun b => (b, false))
    s.ingressArrive (f 24 2) (f 26 4) bytes.length 0
/-- PEER_INGRESS_COMMAND (R322). -/
def execPeerIngressCommand (port entry : Nat) (key : Word) (off : Nat) (bytes : List Byte) (s : State) : Res :=
  .next (peerIngress port entry key off bytes s)

/-! The management domain (R305, R324 to R327). -/

/-- EVCAUSE bits set; one that becomes 1 signals vector 0 (R320). -/
def State.event (bit : Nat) (s : State) : State :=
  if s.evcause.getLsbD bit then s
  else ({ s with evcause := s.evcause ||| BitVec.ofNat 64 (2 ^ bit) } : State).signal 0
/-- FREEZE: terminal until a reset, whatever its cause. -/
def freeze (_ : FreezeCause) (s : State) : State := if s.frozen then s else ({ s with frozen := true } : State).event 0
/-- FREEZE (R305). -/
def execFreeze (why : FreezeCause) (s : State) : Res := .next (freeze why s)
/-- THERMAL_LIMIT: a die enters or leaves its limit; bank starts go down with it and come back without it. -/
def thermalLimit (die : Nat) (on : Bool) (banks : BankStarts) (s : State) : State :=
  if 4 ≤ die then s
  else
    let d := s.dieAt die
    let s := s.setDieAt die { d with limit := on, starts := if on then banks else .b64 }
    if on && !d.limit then s.event 1 else s
/-- THERMAL_LIMIT (R327). -/
def execThermalLimit (die : Nat) (on : Bool) (banks : BankStarts) (s : State) : Res := .next (thermalLimit die on banks s)

/-- The bytes of an image that its signature covers: the header and the body (R325). -/
def signedBytes (i : FwImage) : List Byte := Config.fwHeader i.key i.version i.body.length ++ i.body
/-- An image is accepted (R325). -/
def FwImage.accepted (i : FwImage) : Bool :=
  i.key.length = 64 && i.signature.length = 29792 && Config.shake256 i.key = Config.fusedKeyHash
    && Config.slhVerify i.key (signedBytes i) i.signature && Config.fusedMinVersion ≤ i.version
/-- An image boots. -/
def State.bootWith (i : FwImage) (s : State) : State := { s with booted := true, firmware := (signedBytes i) }
/-- BOOT: the primary target's image, then the secondary's. -/
def boot (primary secondary : Option FwImage) (s : State) : State :=
  if s.booted || s.bootFailed then s
  else match primary.filter FwImage.accepted with
  | some i => s.bootWith i
  | none =>
    let s := s.event 2
    match secondary.filter FwImage.accepted with
    | some i => s.bootWith i
    | none => { s with bootFailed := true }
/-- BOOT (R325). -/
def execBoot (primary secondary : Option FwImage) (s : State) : Res := .next (boot primary secondary s)
/-- CONFIGURATION_REQUEST (R325): answered, with retry status while boot has failed on both targets. -/
def execConfigurationRequest (_ : Word) (s : State) : Res := .next { s with cfgReplies := s.cfgReplies ++ [s.bootFailed] }
/-- A 64-byte value's bytes, and a nonce's, in little-endian order (log 9). -/
def digestBytes (d : BitVec 512) : List Byte := leBytes 64 d.toNat
/-- The response to a nonce: the digests of the ROM, the firmware that was booted and the fuses, the nonce, and a signature
over the four by the device key (R326). -/
def attestation (firmware : List Byte) (nonce : BitVec 256) : Attestation :=
  let rom := Config.shake512 Config.romBytes
  let fw := Config.shake512 firmware
  let fuses := Config.shake512 Config.fuseBytes
  let message := digestBytes rom ++ digestBytes fw ++ digestBytes fuses ++ leBytes 32 nonce.toNat
  { rom := rom, firmware := fw, fuses := fuses, nonce := nonce, signature := (List.range 29792).map (Config.slhSign message) }
/-- ATTESTATION_REQUEST (R326): the response by the path of the request. -/
def execAttestationRequest (nonce : BitVec 256) (viaDoe : Bool) (s : State) : Res :=
  .next { s with attested := s.attested ++ [(viaDoe, attestation s.firmware nonce)] }

end Sys2Proof.Machine
end

