-- ==== Sys2Proof/Machine/Host.lean ====
section
/-! DEFINITION. The host interface (R283 to R285, R315, R317 to R321): BAR0 and BAR2, host queues and their entries, and the
debugger. -/

namespace Sys2Proof.Machine

/-! Host queue registers (R320). -/

def pow2In (lo hi v : Nat) : Bool := lo ≤ v && v ≤ hi && 2 ^ v.log2 = v
/-- The device does not answer the host: boot has failed on both targets, or every clock has stopped. -/
def State.hostDead (s : State) : Bool := s.frozen || s.bootFailed
def HostQ.enabled (q : HostQ) : Bool := q.qctl.getLsbD 0
/-- A write of QCTL. -/
def HostQ.control (q : HostQ) (v : Word) : HostQ :=
  if v.getLsbD 0 then
    let ok := pow2In 16 65536 q.qsize.toNat && pow2In 16 65536 q.ssize.toNat && q.qceil.toNat ≤ 47
    { q with qctl := if ok then v &&& 3 else v &&& 2 }
  else { q with qctl := v &&& 2, qhead := 0, qtail := 0, stail := 0, shead := 0 }
/-- DOORBELL: QTAIL. -/
def doorbell (q : Nat) (v : Word) (s : State) : State :=
  if s.hostDead || 64 ≤ q then s else s.setHostqAt q { s.hostqAt q with qtail := v }
/-- DOORBELL (R320). -/
def execDoorbell (q : Nat) (v : Word) (s : State) : Res := .next (doorbell q v s)
def writeQctl (q : Nat) (v : Word) (s : State) : State :=
  if s.hostDead || 64 ≤ q then s else s.setHostqAt q ((s.hostqAt q).control v)
/-- QUEUE_ENABLE (R320): a write of QCTL with ENABLE = 1. -/
def execQueueEnable (q : Nat) (v : Word) (s : State) : Res := .next (if v.getLsbD 0 then writeQctl q v s else s)
/-- QUEUE_DISABLE (R320): a write of QCTL with ENABLE = 0. -/
def execQueueDisable (q : Nat) (v : Word) (s : State) : Res := .next (if v.getLsbD 0 then s else writeQctl q v s)
def clearEvcause (v : DWord) (s : State) : State := if s.hostDead then s else { s with evcause := s.evcause &&& ~~~v }
/-- EVCAUSE_CLEAR (R320). -/
def execEvcauseClear (v : DWord) (s : State) : Res := .next (clearEvcause v s)

/-! Other registers and tables of BAR0. -/

/-- The bits of byte `b` of a peer-table or an export-table entry that R320 does not give as zero. -/
def peerBits (b : Nat) : Byte := if b = 19 then 0x83 else 0xFF
def exportBits (b : Nat) : Byte := if b = 31 then 0 else 0xFF
/-- Bytes written to a table of 32-byte entries, of whose bytes `keep` tells the bits that are not always zero. -/
def putBytes (keep : Nat → Byte) (t : Tab Byte) (off size : Nat) (v : DWord) : Tab Byte :=
  Tab.putN 0 off ((leBytes size v.toNat).zipIdx.map fun p => p.1 &&& keep ((off + p.2) % 32)) t
/-- A write to a peer or export table whose entries hold V in bit 7 or bit 0 of byte `vb`: while V is 1 only the clearing of
V takes effect (log 25). -/
def tableWrite (keep : Nat → Byte) (t : Tab Byte) (vb bit off size : Nat) (v : DWord) : Tab Byte :=
  let p := off / 32 * 32 + vb
  if (Tab.get (0 : Byte) p t).getLsbD bit then
    if off ≤ p && p < off + size && !v.getLsbD (8 * (p - off) + bit) then
      Tab.put 0 p (Tab.get (0 : Byte) p t &&& ~~~(BitVec.ofNat 8 (2 ^ bit))) t
    else t
  else putBytes keep t off size v
/-- MSI-X table bytes; a vector that is unmasked while its bit is pending signals. -/
def msixWrite (off size : Nat) (v : DWord) (s : State) : State :=
  let s := { s with msixTable := (leBytes size v.toNat).zipIdx.foldl (fun t p =>
    Tab.put (msixDefault (off + p.2)) (off + p.2) p.1 t) s.msixTable }
  let vec := off / 16
  let masked := (Tab.get (msixDefault (16 * vec + 12)) (16 * vec + 12) s.msixTable).getLsbD 0
  let pend := Tab.get (0 : Byte) (vec / 8) s.msixPending
  if !masked && pend.getLsbD (vec % 8) then
    ({ s with msixPending := Tab.put 0 (vec / 8) (pend &&& ~~~(BitVec.ofNat 8 (2 ^ (vec % 8)))) s.msixPending } : State).signal vec
  else s
/-- A host queue's registers, at their offset within its 64 bytes. -/
def hostqWrite (q r size : Nat) (v : DWord) (s : State) : State :=
  let x := s.hostqAt q
  let w : Word := v.setWidth 32
  let free := !x.enabled
  match r, size with
  | 0x00, 8 => if free then s.setHostqAt q { x with qbase := v } else s
  | 0x08, 4 => if free then s.setHostqAt q { x with qsize := w } else s
  | 0x0C, 4 => s.setHostqAt q { x with qceil := w }
  | 0x18, 8 => if free then s.setHostqAt q { x with sbase := v } else s
  | 0x20, 4 => if free then s.setHostqAt q { x with ssize := w } else s
  | 0x28, 4 => s.setHostqAt q { x with shead := w }
  | 0x2C, 4 => writeQctl q w s
  | _, _ => s
/-- BAR2WIN keeps its tier and its offset alone. -/
def bar2Mask : DWord := 0xC00FFFFF00000000
/-- REGISTER_WRITE (R320): an aligned write of a register's own size; every other access is ignored. -/
def registerWrite (off size : Nat) (v : DWord) (s : State) : State :=
  if s.hostDead || (size ≠ 4 && size ≠ 8) || off % size ≠ 0 then s
  else if off < 0x40000 then (if off % 0x1000 = 0 && size = 4 then doorbell (off / 0x1000) (v.setWidth 32) s else s)
  else if off = 0x40010 && size = 8 then { s with bar2win := v &&& bar2Mask }
  else if off = 0x40018 && size = 8 then clearEvcause v s
  else if 0x50000 ≤ off && off < 0x51000 then hostqWrite ((off - 0x50000) / 64) (off % 64) size v s
  else if 0x80000 ≤ off && off < 0xA0000 then
    let c := (off - 0x80000) / 32
    let x := s.ctxAt c
    if size ≠ 4 then s
    else if off % 32 = 0 then s.setCtxAt c { x with errHead := v.setWidth 32 }
    else if off % 32 = 0x10 then s.setCtxAt c { x with dbgHead := v.setWidth 32 } else s
  else if 0xA0000 ≤ off && off < 0xC0000 then { s with peerTable := tableWrite peerBits s.peerTable 19 7 (off - 0xA0000) size v }
  else if 0xC0000 ≤ off && off < 0xC8000 then { s with exportTable := tableWrite exportBits s.exportTable 30 0 (off - 0xC0000) size v }
  else if 0xF0000 ≤ off && off + size ≤ 0xF0430 then msixWrite (off - 0xF0000) size v s
  else s
/-- REGISTER_WRITE (R320). -/
def execRegisterWrite (off size : Nat) (v : DWord) (s : State) : Res := .next (registerWrite off size v s)

/-- CSTAT of a context. -/
def Ctx.cstat (c : Ctx) : Nat :=
  (if c.registered then 1 else 0) + (if c.preempt.isSome then 2 else 0) + (if c.preempted then 4 else 0)
    + (if c.debugger.isSome then 8 else 0) + (if c.replay then 16 else 0)
/-- DSTAT. -/
def State.dstat (s : State) : Nat :=
  (if s.booted then 1 else 0) + (if s.frozen then 2 else 0) + (if s.dies.any fun d => d.2.limit then 4 else 0)
/-- A read of BAR0, of a register's own size or of a table (R320). -/
def State.barRead (s : State) (off size : Nat) : Nat :=
  if (size ≠ 4 && size ≠ 8) || off % size ≠ 0 then 0
  else if off = 0x40000 && size = 4 then 0x0640 * 2 ^ 16 + Config.stepping.toNat * 2 ^ 8
  else if off = 0x40008 && size = 4 then s.dstat
  else if off = 0x40010 && size = 8 then s.bar2win.toNat
  else if off = 0x40018 && size = 8 then s.evcause.toNat
  else if 0x50000 ≤ off && off < 0x51000 then
    let x := s.hostqAt ((off - 0x50000) / 64)
    match off % 64, size with
    | 0x00, 8 => x.qbase.toNat | 0x08, 4 => x.qsize.toNat | 0x0C, 4 => x.qceil.toNat | 0x10, 4 => x.qhead.toNat
    | 0x14, 4 => x.qtail.toNat | 0x18, 8 => x.sbase.toNat | 0x20, 4 => x.ssize.toNat | 0x24, 4 => x.stail.toNat
    | 0x28, 4 => x.shead.toNat | 0x2C, 4 => x.qctl.toNat | _, _ => 0
  else if 0x80000 ≤ off && off < 0xA0000 then
    let x := s.ctxAt ((off - 0x80000) / 32)
    match off % 32, size with
    | 0x00, 4 => x.errHead.toNat | 0x04, 4 => x.errTail.toNat | 0x08, 4 => x.errDrop.toNat | 0x0C, 4 => x.cstat
    | 0x10, 4 => x.dbgHead.toNat | 0x14, 4 => x.dbgTail.toNat | _, _ => 0
  else if 0xA0000 ≤ off && off < 0xC0000 then leNat (Tab.getN (0 : Byte) (off - 0xA0000) size s.peerTable)
  else if 0xC0000 ≤ off && off < 0xC8000 then leNat (Tab.getN (0 : Byte) (off - 0xC0000) size s.exportTable)
  else if 0xF0000 ≤ off && off + size ≤ 0xF0430 then
    leNat ((List.range size).map fun i => Tab.get (msixDefault (off - 0xF0000 + i)) (off - 0xF0000 + i) s.msixTable)
  else if 0xF8000 ≤ off && off + size ≤ 0xF8010 then leNat (Tab.getN (0 : Byte) (off - 0xF8000) size s.msixPending)
  else 0

/-- The places of a table's entries that are not zero. -/
def State.entriesAt (s : State) (table : Nat) : List Nat :=
  ((Tab.range table (table + 2 ^ 15) s.mem).map fun p => (p.1 - table) / 8).dedup
/-- The pages that a context's tables map (R37). -/
def State.leaves (s : State) (c : Ctx) : List Leaf :=
  (s.entriesAt c.root).flatMap fun i1 => (s.entriesAt (tableOf (s.entry c.root i1))).flatMap fun i2 =>
    let e2 := s.entry (tableOf (s.entry c.root i1)) i2
    (if bits e2 1 1 = 1 then [0] else s.entriesAt (tableOf e2)).filterMap fun i3 =>
      match s.walk c (i1 * 2 ^ 43 + i2 * 2 ^ 31 + i3 * 2 ^ 19) with | .leaf l => some l | _ => none
/-- Some of `n` bytes at a memory key are the context's memory. -/
def State.mapsKey (s : State) (c : Ctx) (key n : Nat) : Bool :=
  (s.leaves c).any fun l => overlaps (memKey l.tier l.base) (2 ^ l.bits) key n
/-- A host's store, to its own memory or through BAR2, recorded for every capturing context whose memory it writes
(R306). -/
def State.hostStore (key : Nat) (b : List Byte) (s : State) : State :=
  (Tab.keys s.ctxs).foldl (fun s c =>
    if (s.ctxAt c).replay && s.mapsKey (s.ctxAt c) key b.length then s.capture c (16 + b.length) else s) (s.writeMem key b)
/-- BAR2WIN's tier and offset (R320). -/
def State.bar2Tier (s : State) : Nat := s.bar2win.toNat / 2 ^ 62
def State.bar2Base (s : State) : Nat := s.bar2win.toNat % 2 ^ 52
/-- The bytes from an offset of the window on that the window and the tier hold. -/
def State.bar2Room (s : State) (off : Nat) : Nat := Nat.min (2 ^ 32 - off) (tierLimit {} s.bar2Tier - (s.bar2Base + off))
/-- A host's read through BAR2: of the windowed tier, and zero where the window names neither near nor capacity or lies past the
tier's end (R315, R320). -/
def State.bar2Read (s : State) (off n : Nat) : List Byte :=
  if 2 ≤ s.bar2Tier then List.replicate n 0
  else
    let b := s.readMem (memKey s.bar2Tier (s.bar2Base + off)) (Nat.min n (s.bar2Room off))
    b ++ List.replicate (n - b.length) 0
/-- BAR2_WRITE (R315): into the windowed tier, as far as the window and the tier reach. -/
def bar2Write (off : Nat) (bytes : List Byte) (s : State) : State :=
  if s.hostDead || 2 ≤ s.bar2Tier then s
  else s.hostStore (memKey s.bar2Tier (s.bar2Base + off)) (bytes.take (s.bar2Room off))
/-- BAR2_WRITE (R315). -/
def execBar2Write (off : Nat) (bytes : List Byte) (s : State) : Res := .next (bar2Write off bytes s)

/-! Host queue entries (R318). -/

/-- The entry at the head of a queue that may be consumed. -/
def State.qEntry (s : State) (q : Nat) : Option (List Byte) :=
  let x := s.hostqAt q
  if s.hostDead || 64 ≤ q || !x.enabled || x.qhead = x.qtail || x.ssize ≤ x.stail - x.shead then none
  else some (s.readMem (memKey 2 (x.qbase.toNat + 64 * (x.qhead.toNat % x.qsize.toNat))) 64)
/-- A status written to the queue's status ring. -/
def State.status (q code arg : Nat) (s : State) : State :=
  let x := s.hostqAt q
  let s := (s.writeMem (memKey 2 (x.sbase.toNat + 16 * (x.stail.toNat % x.ssize.toNat))) (leBytes 8 code ++ leBytes 8 arg)).setHostqAt
    q { x with stail := x.stail + 1 }
  if x.qctl.getLsbD 1 then s.signal (2 + q) else s
/-- A field of an entry. -/
def qf (b : List Byte) (i n : Nat) : Nat := leNat ((b.drop i).take n)
/-- What consuming an entry gives: its status at once, none until an outcome is known, or a wait at the head. -/
inductive QResult where
  | done (code arg : Nat) (s : State) | later (s : State) | wait
/-- The head entry, if it is of the kind, consumed: `f` gets its bytes and its context. A context number above 4,095 is
rejected (R317). -/
def consume (kind q : Nat) (f : List Byte → Nat → State → QResult) (s : State) : State :=
  match s.qEntry q with
  | none => s
  | some b =>
    let next := fun (s : State) => let x := s.hostqAt q; s.setHostqAt q { x with qhead := x.qhead + 1 }
    let reserved := qf b 0 1 = 0 || 13 < qf b 0 1
    if reserved && kind = 1 then (next s).status q 1 0
    else if qf b 0 1 ≠ kind then s
    else if 4096 ≤ qf b 4 4 then (next s).status q 1 0
    else match f b (qf b 4 4) s with
    | .done code arg s => (next s).status q code arg
    | .later s => next s
    | .wait => s
def reject (s : State) : QResult := .done 1 0 s
/-- An entry that is rejected or done. -/
def when (ok : Bool) (f : State → State) (s : State) : QResult := if ok then .done 0 0 (f s) else reject s

/-- LAUNCH (R283, R318, R321). -/
def hostLaunch (q : Nat) : State → State := consume 1 q fun b ctx s =>
  let c := s.ctxAt ctx
  if !c.registered then reject s
  else match s.launchCheck noCore ctx (BitVec.ofNat 64 (qf b 8 8)) 47 with
  | .wait => .wait
  | .bad _ => reject s
  | .ok e _ =>
    .done 0 s.nextSeq (s.newGrid { ctx := ctx, prio := Nat.min e.fp.prio (s.hostqAt q).qceil.toNat, fp := e.fp
                                   stopAtEntry := (qf b 16 1).testBit 0 && c.debugger.isSome })
/-- HOST_LAUNCH (R318). -/
def execHostLaunch (q : Nat) (s : State) : Res := .next (hostLaunch q s)
/-- XLATE: forwarded to the translation command queue. -/
def xlateEntry (q : Nat) : State → State := consume 2 q fun b _ s =>
  .done 0 0 { s with xlq := s.xlq ++ [(b.drop 32).take 32] }
/-- XLATE (R318). -/
def execXlate (q : Nat) (s : State) : Res := .next (xlateEntry q s)

/-- A location of one of the tiers with this alignment: its memory key (R317). -/
def locKey (tiers : List Nat) (align v : Nat) : Option Nat :=
  if bits v 61 52 = 0 && tiers.contains (v / 2 ^ 62) && v % 2 ^ 52 % align = 0
    && (v / 2 ^ 62 = 2 || v % 2 ^ 52 < tierLimit {} (v / 2 ^ 62)) then some (memKey (v / 2 ^ 62) (v % 2 ^ 52)) else none
def windowOk (v : Nat) : Bool := v = 0 || pow2In (2 ^ 21) (2 ^ 52) v
/-- A context from its descriptor (R317), what its registers and debugger hold kept. -/
def descCtx (b : List Byte) (old : Ctx) : Option Ctx :=
  let f := qf b
  let flags := f 92 4
  let evpsz := f 72 8
  (locKey [0, 1] 32768 (f 0 8)).bind fun root =>
  (locKey [0, 1] 16 (f 32 8)).bind fun sht =>
  (locKey [0, 1] 64 (f 48 8)).bind fun arena =>
  (if evpsz = 0 then some 0 else locKey [0] 4096 (f 64 8)).bind fun evp =>
  (locKey [2] 64 (f 80 8)).bind fun err =>
  (if flags = 0 then some 0 else locKey [1] 1 (f 96 8)).bind fun cap =>
    if windowOk (f 8 8) && windowOk (f 16 8) && 1 ≤ f 40 4 && f 40 4 ≤ 2 ^ 24 && f 44 4 ≤ 60000 && 1 ≤ f 56 8
      && f 56 8 ≤ 2 ^ 29 && evpsz % 4096 = 0 && pow2In 64 (2 ^ 20) (f 88 4) && flags < 2
      && (b.drop 112).all (· = 0) then
      some { registered := true, root := root, hostwin := f 8 8, peerwin := f 16 8, tvb := BitVec.ofNat 64 (f 24 8)
             sht := sht, shtn := f 40 4, pto := f 44 4, arena := arena, arenag := f 56 8, evp := evp, evpsz := evpsz
             err := err, errn := f 88 4, replay := flags = 1, cap := cap, capsz := f 104 8, errHead := old.errHead
             errTail := old.errTail, errDrop := old.errDrop, dbgHead := old.dbgHead, dbgTail := old.dbgTail
             preempt := old.preempt, preempted := old.preempted, debugger := old.debugger }
    else none
/-- DESC: rejected for a context that has an unfinished grid; the set handle table reads zero after it (R120). The TLBs keep
what they hold of the context, which is an INVAL's to remove (R43): the spec does not say, and this is the model's choice
(log 28). -/
def descEntry (q : Nat) : State → State := consume 3 q fun b ctx s =>
  let busy := (s.grids.any fun p => p.2.ctx = ctx && p.2.live) || s.wgs.any fun p => p.2.ctx = ctx && p.2.place ≠ .finished
  match descCtx (s.readMem (memKey 2 (qf b 8 8)) 256) (s.ctxAt ctx) with
  | none => reject s
  | some c => when (!busy) (fun s =>
      { s.setCtxAt ctx c with mem := Tab.delRange c.sht (c.sht + 16 * c.shtn) s.mem }) s
/-- DESC (R317). -/
def execDesc (q : Nat) (s : State) : Res := .next (descEntry q s)

/-! Pre-emption and kill (R284, R285, R319). -/

/-- PREEMPT: the request; its status comes with its outcome. -/
def preemptEntry (q : Nat) : State → State := consume 4 q fun b ctx s =>
  let c := s.ctxAt ctx
  if !c.registered || c.preempt.isSome || qf b 8 8 % 64 ≠ 0 then reject s
  else .later (s.setCtxAt ctx { c with preempt := some { queue := q, buf := qf b 8 8, size := qf b 16 8 }, preempted := false })
/-- PREEMPT (R284). -/
def execPreempt (q : Nat) (s : State) : Res := .next (preemptEntry q s)
/-- STATE and KIND of a warp in a report. -/
def Warp.reportState (full : Bool) (w : Warp) : Nat × Nat :=
  match w.run with
  | .exited => (5, 0)
  | .halted .. => (4, 0)
  | r =>
    if w.handler then (3, 0)
    else if w.atBlock full then (1, r.kind)
    else if w.sleep.isSome then (2, 0) else (0, 0)
/-- A report entry (R319). -/
def State.reportEntry (s : State) (n : Nat) (g : Wg) : List Byte :=
  leBytes 8 g.seq ++ leBytes 4 g.index ++ leBytes 1 (g.core / 64) ++ leBytes 1 (g.core % 64) ++ leBytes 1 g.fp.warps ++ zeros 17
    ++ padTo 512 ((g.keys n).flatMap fun k =>
      let w := s.warpAt k
      leBytes 8 w.pc.toNat ++ leBytes 1 (w.reportState g.full).1 ++ leBytes 1 (w.reportState g.full).2 ++ zeros 6)
/-- The resident workgroups of a context in order of SEQ and INDEX. -/
def State.residents (s : State) (ctx : Nat) : List (Nat × Wg) :=
  (s.wgs.filter fun p => p.2.ctx = ctx && p.2.onCore).insertionSort fun a b =>
    a.2.seq < b.2.seq ∨ a.2.seq = b.2.seq ∧ a.2.index ≤ b.2.index
/-- The status ring has room for `n` statuses more. -/
def State.statusRoom (s : State) (q n : Nat) : Bool :=
  let x := s.hostqAt q
  x.enabled && (x.stail - x.shead).toNat + n ≤ x.ssize.toNat
/-- PREEMPT_TIMEOUT: the context is reported as pre-empted when none of its workgroups is resident, else as unpreemptible
with a report. -/
def preemptTimeout (ctx : Nat) (s : State) : State :=
  let c := s.ctxAt ctx
  match c.preempt with
  | none => s
  | some p =>
    let l := s.residents ctx
    if p.reported || s.hostDead || !s.statusRoom p.queue 1 then s
    else
      let s := s.setCtxAt ctx { c with preempt := some { p with reported := true }, preempted := l.isEmpty }
      if l.isEmpty then s.status p.queue 2 0
      else
        let n := Nat.min l.length (p.size / 544)
        let s := (l.take n).zipIdx.foldl (fun (s : State) (r : (Nat × Wg) × Nat) =>
          s.writeMem (memKey 2 (p.buf + 544 * r.2)) (s.reportEntry r.1.1 r.1.2)) s
        s.status p.queue 3 (n + 2 ^ 32 * (l.length - n))
/-- PREEMPT_TIMEOUT (R284). -/
def execPreemptTimeout (ctx : Nat) (s : State) : Res := .next (preemptTimeout ctx s)
/-- WITHDRAW: the request ends; one whose outcome was not reported yet gets status 0 (log 23), for which the entry waits while
its ring is full. -/
def withdrawEntry (q : Nat) : State → State := consume 5 q fun _ ctx s =>
  let c := s.ctxAt ctx
  match c.preempt with
  | none => reject s
  | some p =>
    let t := s.setCtxAt ctx { c with preempt := none, preempted := false }
    if p.reported || !(s.hostqAt p.queue).enabled then .done 0 0 t
    else if !s.statusRoom p.queue (if p.queue = q then 2 else 1) then .wait
    else .done 0 0 (t.status p.queue 0 0)
/-- WITHDRAW (R284). -/
def execWithdraw (q : Nat) (s : State) : Res := .next (withdrawEntry q s)
/-- KILL: an unfinished grid of the context, and its descendants. -/
def killEntry (q : Nat) : State → State := consume 6 q fun b ctx s =>
  let n := qf b 8 8
  let g := s.gridAt n
  if (s.grids.any fun p => p.1 = n) && g.ctx = ctx && g.live then .done 4 0 (s.killGrid n) else reject s
/-- KILL (R285). -/
def execKill (q : Nat) (s : State) : Res := .next (killEntry q s)
/-- DECAREA: a stream context's working area. -/
def decareaEntry (q : Nat) : State → State := consume 7 q fun b _ s =>
  let d := qf b 16 2
  let die := d / 4
  let i := d % 4
  match locKey [0] 1 (qf b 8 8) with
  | none => reject s
  | some k =>
    let x := s.decoderAt die i
    when (d < 16 && qf b 18 1 < 4) (fun s =>
      s.setDecoderAt die i { x with areas := Tab.put (0, 0) (qf b 18 1) (k, qf b 24 8) x.areas }) s
/-- DECAREA (R318). -/
def execDecarea (q : Nat) (s : State) : Res := .next (decareaEntry q s)

/-! The debugger (R321). -/

/-- ATTACH. -/
def attachEntry (q : Nat) : State → State := consume 8 q fun b ctx s =>
  let c := s.ctxAt ctx
  when (c.registered && c.debugger.isNone && qf b 8 8 % 64 = 0 && pow2In 16 4096 (qf b 24 4)) (fun s =>
    s.setCtxAt ctx { c with debugger := some { ring := qf b 8 8, size := qf b 24 4, claims := BitVec.ofNat 64 (qf b 16 8) } }) s
/-- ATTACH (R321). -/
def execAttach (q : Nat) (s : State) : Res := .next (attachEntry q s)
/-- An entry of a context that has a debugger. -/
def debugEntry (kind q : Nat) (f : List Byte → Nat → State → QResult) : State → State := consume kind q fun b ctx s =>
  if (s.ctxAt ctx).debugger.isNone then reject s else f b ctx s
/-- The warps that SEQ, INDEX and a mask name in a context. -/
def State.named (s : State) (ctx seq index mask : Nat) : List Nat :=
  s.wgs.flatMap fun p =>
    if p.2.ctx = ctx && p.2.seq = seq && p.2.place ≠ .finished && (index = 0xFFFFFFFF || p.2.index = index) then
      (p.2.keys p.1).filter fun k => mask.testBit (warpNo k)
    else []
/-- STOP. -/
def stopEntry (q : Nat) : State → State := debugEntry 9 q fun b ctx s =>
  .done 0 0 ((s.named ctx (qf b 8 8) (qf b 16 4) (qf b 24 8)).foldl (fun s k => s.asyncTo k 0x28 (BitVec.ofNat 64 (qf b 32 8))) s)
/-- STOP (R321). -/
def execStop (q : Nat) (s : State) : Res := .next (stopEntry q s)
/-- Warps that a debugger may let go: a workgroup that has double-faulted stays halted (R298). -/
def State.freeToGo (s : State) (k : Nat) : Bool := (s.warpAt k).stopped && !(s.wgAt (wgOf k)).dead
/-- The named warps discard what they fetched before (R314, R321): their cores drop the context's lines. -/
def State.refetch (ctx : Nat) (l : List Nat) (s : State) : State :=
  l.foldl (fun s k =>
    let s := s.dropCode (s.wgAt (wgOf k)).core ctx
    s.setWarpAt k { s.warpAt k with icinv := s.icinvs }) { s with icinvs := s.icinvs + 1 }
def legalPc (v : DWord) : Bool := v.toNat % 4 = 0 && canonical v
/-- RESUME: an address that RETT would fault on rejects the entry. -/
def resumeEntry (q : Nat) : State → State := debugEntry 10 q fun b ctx s =>
  let pc : DWord := BitVec.ofNat 64 (qf b 32 8)
  let l := (s.named ctx (qf b 8 8) (qf b 16 4) (qf b 24 8)).filter s.freeToGo
  let at_ := fun (w : Warp) => if pc = 0 then w.tpc else pc
  when (l.all fun k => legalPc (at_ (s.warpAt k))) (fun s =>
    let s := if qf b 40 1 % 2 = 1 then s.refetch ctx l else s
    l.foldl (fun s k => s.leaveHandler k (at_ (s.warpAt k))) s) s
/-- RESUME (R321). -/
def execResume (q : Nat) (s : State) : Res := .next (resumeEntry q s)
/-- The stopped warp that SEQ, INDEX and a warp number name; no INDEX names every workgroup here (R321). -/
def State.stoppedWarp (s : State) (ctx : Nat) (b : List Byte) : Option Nat :=
  if qf b 24 4 = 0xFFFFFFFF then none else (s.named ctx (qf b 16 8) (qf b 24 4) (2 ^ qf b 28 1)).find? fun k => (s.warpAt k).stopped
/-- DBGREAD. That a DBGWRITE of tpc or texec leaves the PC and the exec of the save area as the warp has them is the model's
choice (log 28). -/
def dbgreadEntry (q : Nat) : State → State := debugEntry 11 q fun b ctx s =>
  match s.stoppedWarp ctx b with
  | none => reject s
  | some k =>
    let w := s.warpAt k
    let g := s.wgAt (wgOf k)
    when (qf b 8 8 % 64 = 0) (fun s =>
      let s := s.verify g.core (g.base + g.frame (warpNo k)) 256
      let slot := s.padRead g.core (g.base + g.frame (warpNo k)) 256
      s.writeMem (memKey 2 (qf b 8 8))
        (padTo 16936 (w.save g.fp) ++ slot ++ leBytes 8 w.tpc.toNat ++ leBytes 8 w.texec.toNat ++ zeros 8)) s
/-- DBGREAD (R321). -/
def execDbgread (q : Nat) (s : State) : Res := .next (dbgreadEntry q s)
/-- A write to a stopped warp's register or control value, or none where it is refused. -/
def debugWrite (f : Footprint) (target reg : Nat) (v : DWord) (w : Warp) : Option Warp :=
  match target with
  | 0 => if reg < f.sregs then some (setArchS w reg v) else none
  | 1 => if reg < f.vregs then some (setArchV w reg (.uni (v.setWidth 32))) else none
  | 2 => some { w with texec := v &&& wmask f.width }
  | 3 => if v.toNat < 8 then some { w with fmode := v } else none
  | 4 => some { w with tpc := v }
  | _ => none
/-- DBGWRITE. -/
def dbgwriteEntry (q : Nat) : State → State := debugEntry 12 q fun b ctx s =>
  match s.stoppedWarp ctx b with
  | none => reject s
  | some k =>
    match debugWrite (s.wgAt (wgOf k)).fp (qf b 29 1) (qf b 30 1) (BitVec.ofNat 64 (qf b 8 8)) (s.warpAt k) with
    | none => reject s
    | some w => .done 0 0 (s.setWarpAt k w)
/-- DBGWRITE (R321). -/
def execDbgwrite (q : Nat) (s : State) : Res := .next (dbgwriteEntry q s)
/-- DETACH: every stopped warp resumes at its tpc. DBGWRITE and SYSW put any value there, and the pc is always a multiple of 4
(R12): where RETT would fault on one of them the entry is rejected, as a RESUME is. That is the model's choice (log 28). -/
def detachEntry (q : Nat) : State → State := debugEntry 13 q fun _ ctx s =>
  let l := s.wgs.flatMap fun p => if p.2.ctx = ctx && p.2.onCore then (p.2.keys p.1).filter s.freeToGo else []
  when (l.all fun k => legalPc (s.warpAt k).tpc) (fun s =>
    l.foldl (fun s k => s.leaveHandler k (s.warpAt k).tpc) (s.setCtxAt ctx { s.ctxAt ctx with debugger := none })) s
/-- DETACH (R321). -/
def execDetach (q : Nat) (s : State) : Res := .next (detachEntry q s)
/-- DEBUG_EVENT_WRITE: the oldest stop that waits, once the ring has room. -/
def debugEventWrite (ctx : Nat) (s : State) : State :=
  let c := s.ctxAt ctx
  match c.debugger with
  | none => s
  | some d =>
    match d.waiting with
    | [] => s
    | (k, e) :: r =>
      if s.hostDead || d.size ≤ (c.dbgTail - c.dbgHead).toNat then s
      else
        let g := s.wgAt (wgOf k)
        ((s.writeMem (memKey 2 (d.ring + 64 * (c.dbgTail.toNat % d.size)))
            (padTo 64 (leBytes 8 g.seq ++ leBytes 4 g.index ++ leBytes 1 (warpNo k) ++ leBytes 1 (g.core / 64)
              ++ leBytes 1 (g.core % 64) ++ [e.cause] ++ leBytes 8 e.pc.toNat ++ leBytes 8 e.detail.toNat))).setCtxAt ctx
          { c with debugger := some { d with waiting := r }, dbgTail := c.dbgTail + 1 }).signal 66
/-- DEBUG_EVENT_WRITE (R321). -/
def execDebugEventWrite (ctx : Nat) (s : State) : Res := .next (debugEventWrite ctx s)

end Sys2Proof.Machine
end

