-- ==== Sys2Proof/Machine/Scalar.lean ====
section
/-! DEFINITION. Scalar integer, mask and execute-mask instructions (R167 to R172): they act once for the warp, whatever
exec holds. -/

namespace Sys2Proof.Machine

/-- S(D) := g of Operand(A) and Operand(B). -/
def scal2 (g : DWord → DWord → DWord) (o : Opd) (s : State) : State :=
  s.done o (writeS s.warp o.d (g (sval s.warp o.a) (sval s.warp o.b)))
/-- S(D) := g of Operand(A). -/
def scal1 (g : DWord → DWord) (o : Opd) (s : State) : State := s.done o (writeS s.warp o.d (g (sval s.warp o.a)))
/-- SSEL: a where c is not 0, else b. -/
def scalSel (o : Opd) (s : State) : State :=
  s.done o (writeS s.warp o.d (if sval s.warp o.c ≠ 0 then sval s.warp o.a else sval s.warp o.b))
/-- A shift by b mod 64. -/
def shift64 (g : DWord → Nat → DWord) (a b : DWord) : DWord := g a (b.toNat % 64)

/-- MASK.IF (R171): D saves exec, then exec narrows. -/
def maskIf (o : Opd) (s : State) : State :=
  let w := s.warp
  s.done o ((writeS w o.d w.exec).setExec s.width (w.exec &&& sval w o.a))
def maskElse (o : Opd) (s : State) : State :=
  let w := s.warp
  s.done o (w.setExec s.width (readS w o.d &&& ~~~(sval w o.a)))
def maskEnd (o : Opd) (s : State) : State := s.done o (s.warp.setExec s.width (readS s.warp o.d))
def maskLoop (o : Opd) (s : State) : State :=
  let w := s.warp
  let t := w.exec &&& sval w o.a &&& s.wm
  s.done o (w.setExec s.width (if t ≠ 0 then t else readS w o.d))

/-- exec := g of exec and Operand(A), bits 0 to W − 1 (R172). -/
def execSet (g : DWord → DWord → DWord) (o : Opd) (s : State) : State :=
  s.done o (s.warp.setExec s.width (g s.warp.exec (sval s.warp o.a)))
/-- EXRD. -/
def execRead (o : Opd) (s : State) : State := s.done o (writeS s.warp o.d s.warp.exec)
/-- BALLOT: 0 when exec is empty. -/
def ballotOp (o : Opd) (s : State) : State :=
  let w := s.warp
  s.done o (writeS w o.d (cmpMask w s.width false fun l => lane32 w s.width o.a l ≠ 0))
/-- MPREFIX: per lane, the set bits of the mask below the lane. -/
def mprefixOp (o : Opd) (s : State) : State :=
  let w := s.warp
  let m := (sval w o.a).toNat
  s.done o (w.vputGen s.width false o.d fun l => BitVec.ofNat 32 (popcount l m))
/-- MFIRST. -/
def mfirstOp (o : Opd) (s : State) : State := scal1 (fun a => BitVec.ofNat 64 (ctz 64 a.toNat)) o s

/-- SADD (R169). -/
def execSadd (f : Ops) (s : State) : Res := .next (scal2 (· + ·) (opd f) s)
/-- SADD, C form (R169, R16). -/
def execSaddC (f : COps) (s : State) : Res := .next (scal2 (· + ·) (copdSS f) s)
/-- SSUB (R169). -/
def execSsub (f : Ops) (s : State) : Res := .next (scal2 (· - ·) (opd f) s)
/-- SSUB, C form (R169, R16). -/
def execSsubC (f : COps) (s : State) : Res := .next (scal2 (· - ·) (copdSS f) s)
/-- SMUL (R169). -/
def execSmul (f : Ops) (s : State) : Res := .next (scal2 (· * ·) (opd f) s)
/-- SMUL, C form (R169, R16). -/
def execSmulC (f : COps) (s : State) : Res := .next (scal2 (· * ·) (copdSS f) s)
/-- SMULH (R169). -/
def execSmulh (f : Ops) (s : State) : Res := .next (scal2 mulHigh (opd f) s)
/-- SMULH, C form (R169, R16). -/
def execSmulhC (f : COps) (s : State) : Res := .next (scal2 mulHigh (copdSS f) s)
/-- SMULHU (R169). -/
def execSmulhu (f : Ops) (s : State) : Res := .next (scal2 mulHighU (opd f) s)
/-- SAND (R169). -/
def execSand (f : Ops) (s : State) : Res := .next (scal2 (· &&& ·) (opd f) s)
/-- SAND, C form (R169, R16). -/
def execSandC (f : COps) (s : State) : Res := .next (scal2 (· &&& ·) (copdSS f) s)
/-- SOR (R169). -/
def execSor (f : Ops) (s : State) : Res := .next (scal2 (· ||| ·) (opd f) s)
/-- SOR, C form (R169, R16). -/
def execSorC (f : COps) (s : State) : Res := .next (scal2 (· ||| ·) (copdSS f) s)
/-- SXOR (R169). -/
def execSxor (f : Ops) (s : State) : Res := .next (scal2 (· ^^^ ·) (opd f) s)
/-- SXOR, C form (R169, R16). -/
def execSxorC (f : COps) (s : State) : Res := .next (scal2 (· ^^^ ·) (copdSS f) s)
/-- SANDN (R169). -/
def execSandn (f : Ops) (s : State) : Res := .next (scal2 (fun a b => a &&& ~~~b) (opd f) s)
/-- SANDN, C form (R169, R16). -/
def execSandnC (f : COps) (s : State) : Res := .next (scal2 (fun a b => a &&& ~~~b) (copdSS f) s)
/-- SSHL (R169). -/
def execSshl (f : Ops) (s : State) : Res := .next (scal2 (shift64 fun a n => a <<< n) (opd f) s)
/-- SSHL, C form (R169, R16). -/
def execSshlC (f : COps) (s : State) : Res := .next (scal2 (shift64 fun a n => a <<< n) (copdSS f) s)
/-- SSHR (R169). -/
def execSshr (f : Ops) (s : State) : Res := .next (scal2 (shift64 fun a n => a >>> n) (opd f) s)
/-- SSHR, C form (R169, R16). -/
def execSshrC (f : COps) (s : State) : Res := .next (scal2 (shift64 fun a n => a >>> n) (copdSS f) s)
/-- SSRA (R169). -/
def execSsra (f : Ops) (s : State) : Res := .next (scal2 (shift64 fun a n => a.sshiftRight n) (opd f) s)
/-- SSRA, C form (R169, R16). -/
def execSsraC (f : COps) (s : State) : Res := .next (scal2 (shift64 fun a n => a.sshiftRight n) (copdSS f) s)
/-- SROT (R169). -/
def execSrot (f : Ops) (s : State) : Res := .next (scal2 (shift64 fun a n => a.rotateLeft n) (opd f) s)
/-- SROT, C form (R169, R16). -/
def execSrotC (f : COps) (s : State) : Res := .next (scal2 (shift64 fun a n => a.rotateLeft n) (copdSS f) s)
/-- SMIN (R169). -/
def execSmin (f : Ops) (s : State) : Res := .next (scal2 minS (opd f) s)
/-- SMIN, C form (R169, R16). -/
def execSminC (f : COps) (s : State) : Res := .next (scal2 minS (copdSS f) s)
/-- SMAX (R169). -/
def execSmax (f : Ops) (s : State) : Res := .next (scal2 maxS (opd f) s)
/-- SMAX, C form (R169, R16). -/
def execSmaxC (f : COps) (s : State) : Res := .next (scal2 maxS (copdSS f) s)
/-- SMINU (R169). -/
def execSminu (f : Ops) (s : State) : Res := .next (scal2 minU (opd f) s)
/-- SMINU, C form (R169, R16). -/
def execSminuC (f : COps) (s : State) : Res := .next (scal2 minU (copdSS f) s)
/-- SMAXU (R169). -/
def execSmaxu (f : Ops) (s : State) : Res := .next (scal2 maxU (opd f) s)
/-- SMAXU, C form (R169, R16). -/
def execSmaxuC (f : COps) (s : State) : Res := .next (scal2 maxU (copdSS f) s)
/-- SDIV (R170). -/
def execSdiv (f : Ops) (s : State) : Res := .next (scal2 sdivT (opd f) s)
/-- SDIV, C form (R170, R16). -/
def execSdivC (f : COps) (s : State) : Res := .next (scal2 sdivT (copdSS f) s)
/-- SDIVU (R170). -/
def execSdivu (f : Ops) (s : State) : Res := .next (scal2 udivT (opd f) s)
/-- SDIVU, C form (R170, R16). -/
def execSdivuC (f : COps) (s : State) : Res := .next (scal2 udivT (copdSS f) s)
/-- SREM (R170). -/
def execSrem (f : Ops) (s : State) : Res := .next (scal2 sremT (opd f) s)
/-- SREM, C form (R170, R16). -/
def execSremC (f : COps) (s : State) : Res := .next (scal2 sremT (copdSS f) s)
/-- SREMU (R170). -/
def execSremu (f : Ops) (s : State) : Res := .next (scal2 uremT (opd f) s)
/-- SREMU, C form (R170, R16). -/
def execSremuC (f : COps) (s : State) : Res := .next (scal2 uremT (copdSS f) s)
/-- SCMPEQ (R169). -/
def execScmpeq (f : Ops) (s : State) : Res := .next (scal2 (fun a b => bool64 (a == b)) (opd f) s)
/-- SCMPEQ, C form (R169, R16). -/
def execScmpeqC (f : COps) (s : State) : Res := .next (scal2 (fun a b => bool64 (a == b)) (copdSS f) s)
/-- SCMPNE (R169). -/
def execScmpne (f : Ops) (s : State) : Res := .next (scal2 (fun a b => bool64 (a != b)) (opd f) s)
/-- SCMPNE, C form (R169, R16). -/
def execScmpneC (f : COps) (s : State) : Res := .next (scal2 (fun a b => bool64 (a != b)) (copdSS f) s)
/-- SCMPLT (R169). -/
def execScmplt (f : Ops) (s : State) : Res := .next (scal2 (fun a b => bool64 (a.slt b)) (opd f) s)
/-- SCMPLT, C form (R169, R16). -/
def execScmpltC (f : COps) (s : State) : Res := .next (scal2 (fun a b => bool64 (a.slt b)) (copdSS f) s)
/-- SCMPLTU (R169). -/
def execScmpltu (f : Ops) (s : State) : Res := .next (scal2 (fun a b => bool64 (a.ult b)) (opd f) s)
/-- SCMPLTU, C form (R169, R16). -/
def execScmpltuC (f : COps) (s : State) : Res := .next (scal2 (fun a b => bool64 (a.ult b)) (copdSS f) s)
/-- SCMPLE (R169). -/
def execScmple (f : Ops) (s : State) : Res := .next (scal2 (fun a b => bool64 (a.sle b)) (opd f) s)
/-- SCMPLEU (R169). -/
def execScmpleu (f : Ops) (s : State) : Res := .next (scal2 (fun a b => bool64 (a.ule b)) (opd f) s)
/-- SMOV (R169). -/
def execSmov (f : Ops) (s : State) : Res := .next (scal1 id (opd f) s)
/-- SMOV, C form (R169, R16). -/
def execSmovC (f : COps) (s : State) : Res := .next (scal1 id (copdS f) s)
/-- SSEL (R169). -/
def execSsel (f : Ops) (s : State) : Res := .next (scalSel (opd f) s)
/-- SPOP (R169). -/
def execSpop (f : Ops) (s : State) : Res := .next (scal1 (fun a => BitVec.ofNat 64 (popcount 64 a.toNat)) (opd f) s)
/-- SPOP, C form (R169, R16). -/
def execSpopC (f : COps) (s : State) : Res := .next (scal1 (fun a => BitVec.ofNat 64 (popcount 64 a.toNat)) (copdS f) s)
/-- SCLZ (R169). -/
def execSclz (f : Ops) (s : State) : Res := .next (scal1 (fun a => BitVec.ofNat 64 (clz 64 a.toNat)) (opd f) s)
/-- SCLZ, C form (R169, R16). -/
def execSclzC (f : COps) (s : State) : Res := .next (scal1 (fun a => BitVec.ofNat 64 (clz 64 a.toNat)) (copdS f) s)
/-- SCTZ (R169). -/
def execSctz (f : Ops) (s : State) : Res := .next (scal1 (fun a => BitVec.ofNat 64 (ctz 64 a.toNat)) (opd f) s)
/-- MASK_IF (R171). -/
def execMaskIf (f : Ops) (s : State) : Res := .next (maskIf (opd f) s)
/-- MASK_IF, C form (R171, R16). -/
def execMaskIfC (f : COps) (s : State) : Res := .next (maskIf (copdS f) s)
/-- MASK_ELSE (R171). -/
def execMaskElse (f : Ops) (s : State) : Res := .next (maskElse (opd f) s)
/-- MASK_ELSE, C form (R171, R16). -/
def execMaskElseC (f : COps) (s : State) : Res := .next (maskElse (copdS f) s)
/-- MASK_END (R171). -/
def execMaskEnd (f : Ops) (s : State) : Res := .next (maskEnd (opd f) s)
/-- MASK_END, C form (R171, R16). -/
def execMaskEndC (f : COps) (s : State) : Res := .next (maskEnd (copdN f) s)
/-- MASK_LOOP (R171). -/
def execMaskLoop (f : Ops) (s : State) : Res := .next (maskLoop (opd f) s)
/-- MASK_LOOP, C form (R171, R16). -/
def execMaskLoopC (f : COps) (s : State) : Res := .next (maskLoop (copdS f) s)
/-- BALLOT (R172). -/
def execBallot (f : Ops) (s : State) : Res := .next (ballotOp (opd f) s)
/-- MPREFIX (R172). -/
def execMprefix (f : Ops) (s : State) : Res := .next (mprefixOp (opd f) s)
/-- MFIRST (R172). -/
def execMfirst (f : Ops) (s : State) : Res := .next (mfirstOp (opd f) s)
/-- EXRD (R172). -/
def execExrd (f : Ops) (s : State) : Res := .next (execRead (opd f) s)
/-- EXRD, C form (R172, R16). -/
def execExrdC (f : COps) (s : State) : Res := .next (execRead (copdN f) s)
/-- EXWR (R172). -/
def execExwr (f : Ops) (s : State) : Res := .next (execSet (fun _ a => a) (opd f) s)
/-- EXWR, C form (R172, R16). -/
def execExwrC (f : COps) (s : State) : Res := .next (execSet (fun _ a => a) (copdS f) s)
/-- EXAND (R172). -/
def execExand (f : Ops) (s : State) : Res := .next (execSet (· &&& ·) (opd f) s)
/-- EXAND, C form (R172, R16). -/
def execExandC (f : COps) (s : State) : Res := .next (execSet (· &&& ·) (copdS f) s)
/-- EXANDN (R172). -/
def execExandn (f : Ops) (s : State) : Res := .next (execSet (fun e a => e &&& ~~~a) (opd f) s)
/-- EXANDN, C form (R172, R16). -/
def execExandnC (f : COps) (s : State) : Res := .next (execSet (fun e a => e &&& ~~~a) (copdS f) s)

end Sys2Proof.Machine
end

