-- ==== Sys2Proof/Machine/Vector.lean ====
section
/-! DEFINITION. Vector integer instructions (R173 to R176), lane by lane under exec, with the result tags of R162. -/

namespace Sys2Proof.Machine

/-- Which full-width result R162 gives ADD, SUB and MUL of two shapes (rows 6 to 8); none is GEN. -/
def addShape : Shape → Shape → Option VReg
  | .uni a, .uni b => some (.uni (a + b))
  | .aff b1 s1, .aff b2 s2 => some (.aff (b1 + b2) (s1 + s2))
  | .aff b s, .uni u => some (.aff (b + u) s)
  | .uni u, .aff b s => some (.aff (b + u) s)
  | _, _ => none
def subShape : Shape → Shape → Option VReg
  | .uni a, .uni b => some (.uni (a - b))
  | .aff b1 s1, .aff b2 s2 => some (.aff (b1 - b2) (s1 - s2))
  | .aff b s, .uni u => some (.aff (b - u) s)
  | .uni u, .aff b s => some (.aff (u - b) (-s))
  | _, _ => none
def mulShape : Shape → Shape → Option VReg
  | .uni a, .uni b => some (.uni (a * b))
  | .aff b s, .uni u => some (.aff (b * u) (s * u))
  | .uni u, .aff b s => some (.aff (b * u) (s * u))
  | _, _ => none
/-- Every other integer result is GEN (row 9). -/
def noShape (_ _ : Shape) : Option VReg := none

/-- V(D, l) := g of Operand(A, l) and Operand(B, l). -/
def vint2 (sh : Shape → Shape → Option VReg) (g : Word → Word → Word) (o : Opd) : State → State :=
  vecGate o [(0, o.a, false), (1, o.b, false)] fun s =>
    let w := s.warp
    let f := fun l => g (lane32 w s.width o.a l) (lane32 w s.width o.b l)
    s.done o (w.vput s.width o.u o.d ((sh (shapeOf w o.a) (shapeOf w o.b)).getD (genOf s.width f)) f)
/-- V(D, l) := g of Operand(A, l). -/
def vint1 (g : Word → Word) (o : Opd) : State → State :=
  vecGate o [(0, o.a, false)] fun s =>
    let w := s.warp
    s.done o (w.vputGen s.width o.u o.d fun l => g (lane32 w s.width o.a l))
/-- MAD: x × y + z. -/
def vmad (o : Opd) : State → State :=
  vecGate o [(0, o.a, false), (1, o.b, false), (2, o.c, false)] fun s =>
    let w := s.warp
    s.done o (w.vputGen s.width o.u o.d fun l =>
      lane32 w s.width o.a l * lane32 w s.width o.b l + lane32 w s.width o.c l)
/-- The condition of SEL in a lane (R174). -/
def selCond (w : Warp) (width : Nat) (c : Src) (l : Nat) : Bool :=
  match c with
  | .sca r => (readS w r).getLsbD l
  | f => lane32 w width f l ≠ 0
def vsel (o : Opd) : State → State :=
  vecGate o [(0, o.a, false), (1, o.b, false), (2, o.c, false)] fun s =>
    let w := s.warp
    s.done o (w.vputGen s.width o.u o.d fun l =>
      if selCond w s.width o.c l then lane32 w s.width o.a l else lane32 w s.width o.b l)
/-- A compare: S(D) := the mask of the active lanes where the relation holds; D is unchanged with exec empty. -/
def vcmp (g : Word → Word → Bool) (o : Opd) : State → State :=
  vecGate o [(0, o.a, false), (1, o.b, false)] fun s =>
    let w := s.warp
    s.done o (writeS w o.d (cmpMask w s.width o.u fun l => g (lane32 w s.width o.a l) (lane32 w s.width o.b l)))
/-- A shift by y mod 32. -/
def shift32 (g : Word → Nat → Word) (a b : Word) : Word := g a (b.toNat % 32)

/-- Lane l := a + l × b, AFF under full exec (R175). -/
def vaffine (a b : State → Word) (o : Opd) : State → State :=
  vecGate o [] fun s =>
    let v : VReg := .aff (a s) (b s)
    s.done o (s.warp.vput s.width o.u o.d v v.lane)
def tagCode : Tag → DWord | .uni => 0 | .aff => 1 | .gen => 2
/-- VTAG, whatever exec holds (R168, R175). -/
def vtagOp (o : Opd) (s : State) : State :=
  s.done o (writeS s.warp o.d (tagCode (readV s.warp (BitVec.ofNat 6 (numOf o.a))).tag))

/-- A 64-bit result in a pair: y is a pair, or an immediate (R176). -/
def vint64 (g : DWord → DWord → DWord) (o : Opd) : State → State :=
  vecGate o [(0, o.a, true), (1, o.b, true)] fun s =>
    let w := s.warp
    s.done o (w.vput64 s.width o.u o.d fun l => g (lane64 w s.width o.a l) (lane64 w s.width o.b l))
/-- A 64-bit shift by Operand(B, l) mod 64. -/
def vshift64 (g : DWord → Nat → DWord) (o : Opd) : State → State :=
  vecGate o [(0, o.a, true), (1, o.b, false)] fun s =>
    let w := s.warp
    s.done o (w.vput64 s.width o.u o.d fun l => g (lane64 w s.width o.a l) ((lane32 w s.width o.b l).toNat % 64))

/-- ADD (R173). -/
def execAdd (f : Ops) (s : State) : Res := .next (vint2 addShape (· + ·) (opd f) s)
/-- ADD, C form (R173, R16). -/
def execAddC (f : COps) (s : State) : Res := .next (vint2 addShape (· + ·) (copdVV f) s)
/-- SUB (R173). -/
def execSub (f : Ops) (s : State) : Res := .next (vint2 subShape (· - ·) (opd f) s)
/-- SUB, C form (R173, R16). -/
def execSubC (f : COps) (s : State) : Res := .next (vint2 subShape (· - ·) (copdVV f) s)
/-- MUL (R173). -/
def execMul (f : Ops) (s : State) : Res := .next (vint2 mulShape (· * ·) (opd f) s)
/-- MUL, C form (R173, R16). -/
def execMulC (f : COps) (s : State) : Res := .next (vint2 mulShape (· * ·) (copdVV f) s)
/-- MULH (R173). -/
def execMulh (f : Ops) (s : State) : Res := .next (vint2 noShape mulHigh (opd f) s)
/-- MULH, C form (R173, R16). -/
def execMulhC (f : COps) (s : State) : Res := .next (vint2 noShape mulHigh (copdVV f) s)
/-- MULHU (R173). -/
def execMulhu (f : Ops) (s : State) : Res := .next (vint2 noShape mulHighU (opd f) s)
/-- MAD (R173). -/
def execMad (f : Ops) (s : State) : Res := .next (vmad (opd f) s)
/-- ADDS (R173). -/
def execAdds (f : Ops) (s : State) : Res := .next (vint2 noShape (fun x y => satS (x.toInt + y.toInt)) (opd f) s)
/-- SUBS (R173). -/
def execSubs (f : Ops) (s : State) : Res := .next (vint2 noShape (fun x y => satS (x.toInt - y.toInt)) (opd f) s)
/-- ADDUS (R173). -/
def execAddus (f : Ops) (s : State) : Res := .next (vint2 noShape (fun x y => satU ((x.toNat : Int) + (y.toNat : Int))) (opd f) s)
/-- SUBUS (R173). -/
def execSubus (f : Ops) (s : State) : Res := .next (vint2 noShape (fun x y => satU ((x.toNat : Int) - (y.toNat : Int))) (opd f) s)
/-- AND (R173). -/
def execAnd (f : Ops) (s : State) : Res := .next (vint2 noShape (· &&& ·) (opd f) s)
/-- AND, C form (R173, R16). -/
def execAndC (f : COps) (s : State) : Res := .next (vint2 noShape (· &&& ·) (copdVV f) s)
/-- OR (R173). -/
def execOr (f : Ops) (s : State) : Res := .next (vint2 noShape (· ||| ·) (opd f) s)
/-- OR, C form (R173, R16). -/
def execOrC (f : COps) (s : State) : Res := .next (vint2 noShape (· ||| ·) (copdVV f) s)
/-- XOR (R173). -/
def execXor (f : Ops) (s : State) : Res := .next (vint2 noShape (· ^^^ ·) (opd f) s)
/-- XOR, C form (R173, R16). -/
def execXorC (f : COps) (s : State) : Res := .next (vint2 noShape (· ^^^ ·) (copdVV f) s)
/-- ANDN (R173). -/
def execAndn (f : Ops) (s : State) : Res := .next (vint2 noShape (fun x y => x &&& ~~~y) (opd f) s)
/-- ANDN, C form (R173, R16). -/
def execAndnC (f : COps) (s : State) : Res := .next (vint2 noShape (fun x y => x &&& ~~~y) (copdVV f) s)
/-- SHL (R173). -/
def execShl (f : Ops) (s : State) : Res := .next (vint2 noShape (shift32 fun x n => x <<< n) (opd f) s)
/-- SHL, C form (R173, R16). -/
def execShlC (f : COps) (s : State) : Res := .next (vint2 noShape (shift32 fun x n => x <<< n) (copdVV f) s)
/-- SHR (R173). -/
def execShr (f : Ops) (s : State) : Res := .next (vint2 noShape (shift32 fun x n => x >>> n) (opd f) s)
/-- SHR, C form (R173, R16). -/
def execShrC (f : COps) (s : State) : Res := .next (vint2 noShape (shift32 fun x n => x >>> n) (copdVV f) s)
/-- SRA (R173). -/
def execSra (f : Ops) (s : State) : Res := .next (vint2 noShape (shift32 fun x n => x.sshiftRight n) (opd f) s)
/-- SRA, C form (R173, R16). -/
def execSraC (f : COps) (s : State) : Res := .next (vint2 noShape (shift32 fun x n => x.sshiftRight n) (copdVV f) s)
/-- ROT (R173). -/
def execRot (f : Ops) (s : State) : Res := .next (vint2 noShape (shift32 fun x n => x.rotateLeft n) (opd f) s)
/-- ROT, C form (R173, R16). -/
def execRotC (f : COps) (s : State) : Res := .next (vint2 noShape (shift32 fun x n => x.rotateLeft n) (copdVV f) s)
/-- MIN (R173). -/
def execMin (f : Ops) (s : State) : Res := .next (vint2 noShape minS (opd f) s)
/-- MIN, C form (R173, R16). -/
def execMinC (f : COps) (s : State) : Res := .next (vint2 noShape minS (copdVV f) s)
/-- MAX (R173). -/
def execMax (f : Ops) (s : State) : Res := .next (vint2 noShape maxS (opd f) s)
/-- MAX, C form (R173, R16). -/
def execMaxC (f : COps) (s : State) : Res := .next (vint2 noShape maxS (copdVV f) s)
/-- MINU (R173). -/
def execMinu (f : Ops) (s : State) : Res := .next (vint2 noShape minU (opd f) s)
/-- MINU, C form (R173, R16). -/
def execMinuC (f : COps) (s : State) : Res := .next (vint2 noShape minU (copdVV f) s)
/-- MAXU (R173). -/
def execMaxu (f : Ops) (s : State) : Res := .next (vint2 noShape maxU (opd f) s)
/-- MAXU, C form (R173, R16). -/
def execMaxuC (f : COps) (s : State) : Res := .next (vint2 noShape maxU (copdVV f) s)
/-- ABS (R173). -/
def execAbs (f : Ops) (s : State) : Res := .next (vint1 (fun x => if x.slt 0 then -x else x) (opd f) s)
/-- NEG (R173). -/
def execNeg (f : Ops) (s : State) : Res := .next (vint1 (fun x => -x) (opd f) s)
/-- CMPEQ (R173). -/
def execCmpeq (f : Ops) (s : State) : Res := .next (vcmp (· == ·) (opd f) s)
/-- CMPEQ, C form (R173, R16). -/
def execCmpeqC (f : COps) (s : State) : Res := .next (vcmp (· == ·) (copdVV f) s)
/-- CMPNE (R173). -/
def execCmpne (f : Ops) (s : State) : Res := .next (vcmp (· != ·) (opd f) s)
/-- CMPNE, C form (R173, R16). -/
def execCmpneC (f : COps) (s : State) : Res := .next (vcmp (· != ·) (copdVV f) s)
/-- CMPLT (R173). -/
def execCmplt (f : Ops) (s : State) : Res := .next (vcmp (fun x y => x.slt y) (opd f) s)
/-- CMPLT, C form (R173, R16). -/
def execCmpltC (f : COps) (s : State) : Res := .next (vcmp (fun x y => x.slt y) (copdVV f) s)
/-- CMPLTU (R173). -/
def execCmpltu (f : Ops) (s : State) : Res := .next (vcmp (fun x y => x.ult y) (opd f) s)
/-- CMPLTU, C form (R173, R16). -/
def execCmpltuC (f : COps) (s : State) : Res := .next (vcmp (fun x y => x.ult y) (copdVV f) s)
/-- CMPLE (R173). -/
def execCmple (f : Ops) (s : State) : Res := .next (vcmp (fun x y => x.sle y) (opd f) s)
/-- CMPLEU (R173). -/
def execCmpleu (f : Ops) (s : State) : Res := .next (vcmp (fun x y => x.ule y) (opd f) s)
/-- MOV (R173). -/
def execMov (f : Ops) (s : State) : Res := .next (vint1 id (opd f) s)
/-- MOV, C form (R173, R16). -/
def execMovC (f : COps) (s : State) : Res := .next (vint1 id (copdV f) s)
/-- SEL (R174). -/
def execSel (f : Ops) (s : State) : Res := .next (vsel (opd f) s)
/-- POPC (R173). -/
def execPopc (f : Ops) (s : State) : Res := .next (vint1 (fun x => BitVec.ofNat 32 (popcount 32 x.toNat)) (opd f) s)
/-- POPC, C form (R173, R16). -/
def execPopcC (f : COps) (s : State) : Res := .next (vint1 (fun x => BitVec.ofNat 32 (popcount 32 x.toNat)) (copdV f) s)
/-- CLZ (R173). -/
def execClz (f : Ops) (s : State) : Res := .next (vint1 (fun x => BitVec.ofNat 32 (clz 32 x.toNat)) (opd f) s)
/-- CLZ, C form (R173, R16). -/
def execClzC (f : COps) (s : State) : Res := .next (vint1 (fun x => BitVec.ofNat 32 (clz 32 x.toNat)) (copdV f) s)
/-- CTZ (R173). -/
def execCtz (f : Ops) (s : State) : Res := .next (vint1 (fun x => BitVec.ofNat 32 (ctz 32 x.toNat)) (opd f) s)
/-- CTZ, C form (R173, R16). -/
def execCtzC (f : COps) (s : State) : Res := .next (vint1 (fun x => BitVec.ofNat 32 (ctz 32 x.toNat)) (copdV f) s)
/-- VIDX (R175). -/
def execVidx (f : Ops) (s : State) : Res := .next (vaffine (fun _ => 0) (fun _ => 1) (opd f) s)
/-- VIDX, C form (R175, R16). -/
def execVidxC (f : COps) (s : State) : Res := .next (vaffine (fun _ => 0) (fun _ => 1) (copdN f) s)
/-- VAFF (R175). -/
def execVaff (f : Ops) (s : State) : Res :=
  .next (vaffine (fun s => (sval s.warp f.a).setWidth 32) (fun s => (sval s.warp f.b).setWidth 32) (opd f) s)
/-- VAFF, C form (R175, R16). -/
def execVaffC (f : COps) (s : State) : Res :=
  .next (vaffine (fun s => (readS s.warp f.a).setWidth 32) (fun s => (readS s.warp f.b).setWidth 32) (copdSS f) s)
/-- VTAG (R175). -/
def execVtag (f : Ops) (s : State) : Res := .next (vtagOp (opd f) s)
/-- VTAG, C form (R175, R16). -/
def execVtagC (f : COps) (s : State) : Res := .next (vtagOp (copdV f) s)
/-- ADD64 (R176). -/
def execAdd64 (f : Ops) (s : State) : Res := .next (vint64 (· + ·) (opd f) s)
/-- ADD64, C form (R176, R16). -/
def execAdd64C (f : COps) (s : State) : Res := .next (vint64 (· + ·) (copdVV f) s)
/-- SUB64 (R176). -/
def execSub64 (f : Ops) (s : State) : Res := .next (vint64 (· - ·) (opd f) s)
/-- SUB64, C form (R176, R16). -/
def execSub64C (f : COps) (s : State) : Res := .next (vint64 (· - ·) (copdVV f) s)
/-- SHL64 (R176). -/
def execShl64 (f : Ops) (s : State) : Res := .next (vshift64 (fun a n => a <<< n) (opd f) s)
/-- SHL64, C form (R176, R16). -/
def execShl64C (f : COps) (s : State) : Res := .next (vshift64 (fun a n => a <<< n) (copdVV f) s)
/-- SHR64 (R176). -/
def execShr64 (f : Ops) (s : State) : Res := .next (vshift64 (fun a n => a >>> n) (opd f) s)
/-- SHR64, C form (R176, R16). -/
def execShr64C (f : COps) (s : State) : Res := .next (vshift64 (fun a n => a >>> n) (copdVV f) s)
/-- DIV (R173). -/
def execDiv (f : Ops) (s : State) : Res := .next (vint2 noShape sdivT (opd f) s)
/-- DIV, C form (R173, R16). -/
def execDivC (f : COps) (s : State) : Res := .next (vint2 noShape sdivT (copdVV f) s)
/-- DIVU (R173). -/
def execDivu (f : Ops) (s : State) : Res := .next (vint2 noShape udivT (opd f) s)
/-- DIVU, C form (R173, R16). -/
def execDivuC (f : COps) (s : State) : Res := .next (vint2 noShape udivT (copdVV f) s)
/-- REM (R173). -/
def execRem (f : Ops) (s : State) : Res := .next (vint2 noShape sremT (opd f) s)
/-- REM, C form (R173, R16). -/
def execRemC (f : COps) (s : State) : Res := .next (vint2 noShape sremT (copdVV f) s)
/-- REMU (R173). -/
def execRemu (f : Ops) (s : State) : Res := .next (vint2 noShape uremT (opd f) s)
/-- REMU, C form (R173, R16). -/
def execRemuC (f : COps) (s : State) : Res := .next (vint2 noShape uremT (copdVV f) s)

end Sys2Proof.Machine
end

