-- ==== Sys2Proof/Machine/Dispatch.lean ====
section
/-! DEFINITION. One arm for each constructor of `Instr`: one direct call of its meaning. -/

namespace Sys2Proof.Machine

def exec (i : Instr) (s : State) : Host.Outcome State Fault Refusal :=
  match i with
  | .nopC f => Sys2Proof.Machine.execNopC f s
  | .nop f => Sys2Proof.Machine.execNop f s
  | .exitC f => Sys2Proof.Machine.execExitC f s
  | .exit f => Sys2Proof.Machine.execExit f s
  | .jmp f => Sys2Proof.Machine.execJmp f s
  | .call f => Sys2Proof.Machine.execCall f s
  | .calliC f => Sys2Proof.Machine.execCalliC f s
  | .calli f => Sys2Proof.Machine.execCalli f s
  | .retC f => Sys2Proof.Machine.execRetC f s
  | .ret f => Sys2Proof.Machine.execRet f s
  | .br f => Sys2Proof.Machine.execBr f s
  | .brAny f => Sys2Proof.Machine.execBrAny f s
  | .brAll f => Sys2Proof.Machine.execBrAll f s
  | .brNone f => Sys2Proof.Machine.execBrNone f s
  | .bar f cohort => Sys2Proof.Machine.execBar f cohort s
  | .await f => Sys2Proof.Machine.execAwait f s
  | .bwait f => Sys2Proof.Machine.execBwait f s
  | .launch f => Sys2Proof.Machine.execLaunch f s
  | .launchPush k => Sys2Proof.Machine.execLaunchPush k s
  | .join f => Sys2Proof.Machine.execJoin f s
  | .yieldC f => Sys2Proof.Machine.execYieldC f s
  | .yield f => Sys2Proof.Machine.execYield f s
  | .sleepC f => Sys2Proof.Machine.execSleepC f s
  | .sleep f => Sys2Proof.Machine.execSleep f s
  | .sleepExpire k => Sys2Proof.Machine.execSleepExpire k s
  | .saddC f => Sys2Proof.Machine.execSaddC f s
  | .sadd f => Sys2Proof.Machine.execSadd f s
  | .ssubC f => Sys2Proof.Machine.execSsubC f s
  | .ssub f => Sys2Proof.Machine.execSsub f s
  | .smulC f => Sys2Proof.Machine.execSmulC f s
  | .smul f => Sys2Proof.Machine.execSmul f s
  | .smulhC f => Sys2Proof.Machine.execSmulhC f s
  | .smulh f => Sys2Proof.Machine.execSmulh f s
  | .smulhu f => Sys2Proof.Machine.execSmulhu f s
  | .sandC f => Sys2Proof.Machine.execSandC f s
  | .sand f => Sys2Proof.Machine.execSand f s
  | .sorC f => Sys2Proof.Machine.execSorC f s
  | .sor f => Sys2Proof.Machine.execSor f s
  | .sxorC f => Sys2Proof.Machine.execSxorC f s
  | .sxor f => Sys2Proof.Machine.execSxor f s
  | .sandnC f => Sys2Proof.Machine.execSandnC f s
  | .sandn f => Sys2Proof.Machine.execSandn f s
  | .sshlC f => Sys2Proof.Machine.execSshlC f s
  | .sshl f => Sys2Proof.Machine.execSshl f s
  | .sshrC f => Sys2Proof.Machine.execSshrC f s
  | .sshr f => Sys2Proof.Machine.execSshr f s
  | .ssraC f => Sys2Proof.Machine.execSsraC f s
  | .ssra f => Sys2Proof.Machine.execSsra f s
  | .srotC f => Sys2Proof.Machine.execSrotC f s
  | .srot f => Sys2Proof.Machine.execSrot f s
  | .sminC f => Sys2Proof.Machine.execSminC f s
  | .smin f => Sys2Proof.Machine.execSmin f s
  | .smaxC f => Sys2Proof.Machine.execSmaxC f s
  | .smax f => Sys2Proof.Machine.execSmax f s
  | .sminuC f => Sys2Proof.Machine.execSminuC f s
  | .sminu f => Sys2Proof.Machine.execSminu f s
  | .smaxuC f => Sys2Proof.Machine.execSmaxuC f s
  | .smaxu f => Sys2Proof.Machine.execSmaxu f s
  | .sdivC f => Sys2Proof.Machine.execSdivC f s
  | .sdiv f => Sys2Proof.Machine.execSdiv f s
  | .sdivuC f => Sys2Proof.Machine.execSdivuC f s
  | .sdivu f => Sys2Proof.Machine.execSdivu f s
  | .sremC f => Sys2Proof.Machine.execSremC f s
  | .srem f => Sys2Proof.Machine.execSrem f s
  | .sremuC f => Sys2Proof.Machine.execSremuC f s
  | .sremu f => Sys2Proof.Machine.execSremu f s
  | .scmpeqC f => Sys2Proof.Machine.execScmpeqC f s
  | .scmpeq f => Sys2Proof.Machine.execScmpeq f s
  | .scmpneC f => Sys2Proof.Machine.execScmpneC f s
  | .scmpne f => Sys2Proof.Machine.execScmpne f s
  | .scmpltC f => Sys2Proof.Machine.execScmpltC f s
  | .scmplt f => Sys2Proof.Machine.execScmplt f s
  | .scmpltuC f => Sys2Proof.Machine.execScmpltuC f s
  | .scmpltu f => Sys2Proof.Machine.execScmpltu f s
  | .scmple f => Sys2Proof.Machine.execScmple f s
  | .scmpleu f => Sys2Proof.Machine.execScmpleu f s
  | .smovC f => Sys2Proof.Machine.execSmovC f s
  | .smov f => Sys2Proof.Machine.execSmov f s
  | .ssel f => Sys2Proof.Machine.execSsel f s
  | .spopC f => Sys2Proof.Machine.execSpopC f s
  | .spop f => Sys2Proof.Machine.execSpop f s
  | .sclzC f => Sys2Proof.Machine.execSclzC f s
  | .sclz f => Sys2Proof.Machine.execSclz f s
  | .sctz f => Sys2Proof.Machine.execSctz f s
  | .maskIfC f => Sys2Proof.Machine.execMaskIfC f s
  | .maskIf f => Sys2Proof.Machine.execMaskIf f s
  | .maskElseC f => Sys2Proof.Machine.execMaskElseC f s
  | .maskElse f => Sys2Proof.Machine.execMaskElse f s
  | .maskEndC f => Sys2Proof.Machine.execMaskEndC f s
  | .maskEnd f => Sys2Proof.Machine.execMaskEnd f s
  | .maskLoopC f => Sys2Proof.Machine.execMaskLoopC f s
  | .maskLoop f => Sys2Proof.Machine.execMaskLoop f s
  | .ballot f => Sys2Proof.Machine.execBallot f s
  | .mprefix f => Sys2Proof.Machine.execMprefix f s
  | .mfirst f => Sys2Proof.Machine.execMfirst f s
  | .exrdC f => Sys2Proof.Machine.execExrdC f s
  | .exrd f => Sys2Proof.Machine.execExrd f s
  | .exwrC f => Sys2Proof.Machine.execExwrC f s
  | .exwr f => Sys2Proof.Machine.execExwr f s
  | .exandC f => Sys2Proof.Machine.execExandC f s
  | .exand f => Sys2Proof.Machine.execExand f s
  | .exandnC f => Sys2Proof.Machine.execExandnC f s
  | .exandn f => Sys2Proof.Machine.execExandn f s
  | .addC f => Sys2Proof.Machine.execAddC f s
  | .add f => Sys2Proof.Machine.execAdd f s
  | .subC f => Sys2Proof.Machine.execSubC f s
  | .sub f => Sys2Proof.Machine.execSub f s
  | .mulC f => Sys2Proof.Machine.execMulC f s
  | .mul f => Sys2Proof.Machine.execMul f s
  | .mulhC f => Sys2Proof.Machine.execMulhC f s
  | .mulh f => Sys2Proof.Machine.execMulh f s
  | .mulhu f => Sys2Proof.Machine.execMulhu f s
  | .mad f => Sys2Proof.Machine.execMad f s
  | .adds f => Sys2Proof.Machine.execAdds f s
  | .subs f => Sys2Proof.Machine.execSubs f s
  | .addus f => Sys2Proof.Machine.execAddus f s
  | .subus f => Sys2Proof.Machine.execSubus f s
  | .andC f => Sys2Proof.Machine.execAndC f s
  | .and f => Sys2Proof.Machine.execAnd f s
  | .orC f => Sys2Proof.Machine.execOrC f s
  | .or f => Sys2Proof.Machine.execOr f s
  | .xorC f => Sys2Proof.Machine.execXorC f s
  | .xor f => Sys2Proof.Machine.execXor f s
  | .andnC f => Sys2Proof.Machine.execAndnC f s
  | .andn f => Sys2Proof.Machine.execAndn f s
  | .shlC f => Sys2Proof.Machine.execShlC f s
  | .shl f => Sys2Proof.Machine.execShl f s
  | .shrC f => Sys2Proof.Machine.execShrC f s
  | .shr f => Sys2Proof.Machine.execShr f s
  | .sraC f => Sys2Proof.Machine.execSraC f s
  | .sra f => Sys2Proof.Machine.execSra f s
  | .rotC f => Sys2Proof.Machine.execRotC f s
  | .rot f => Sys2Proof.Machine.execRot f s
  | .minC f => Sys2Proof.Machine.execMinC f s
  | .min f => Sys2Proof.Machine.execMin f s
  | .maxC f => Sys2Proof.Machine.execMaxC f s
  | .max f => Sys2Proof.Machine.execMax f s
  | .minuC f => Sys2Proof.Machine.execMinuC f s
  | .minu f => Sys2Proof.Machine.execMinu f s
  | .maxuC f => Sys2Proof.Machine.execMaxuC f s
  | .maxu f => Sys2Proof.Machine.execMaxu f s
  | .abs f => Sys2Proof.Machine.execAbs f s
  | .neg f => Sys2Proof.Machine.execNeg f s
  | .cmpeqC f => Sys2Proof.Machine.execCmpeqC f s
  | .cmpeq f => Sys2Proof.Machine.execCmpeq f s
  | .cmpneC f => Sys2Proof.Machine.execCmpneC f s
  | .cmpne f => Sys2Proof.Machine.execCmpne f s
  | .cmpltC f => Sys2Proof.Machine.execCmpltC f s
  | .cmplt f => Sys2Proof.Machine.execCmplt f s
  | .cmpltuC f => Sys2Proof.Machine.execCmpltuC f s
  | .cmpltu f => Sys2Proof.Machine.execCmpltu f s
  | .cmple f => Sys2Proof.Machine.execCmple f s
  | .cmpleu f => Sys2Proof.Machine.execCmpleu f s
  | .movC f => Sys2Proof.Machine.execMovC f s
  | .mov f => Sys2Proof.Machine.execMov f s
  | .sel f => Sys2Proof.Machine.execSel f s
  | .popcC f => Sys2Proof.Machine.execPopcC f s
  | .popc f => Sys2Proof.Machine.execPopc f s
  | .clzC f => Sys2Proof.Machine.execClzC f s
  | .clz f => Sys2Proof.Machine.execClz f s
  | .ctzC f => Sys2Proof.Machine.execCtzC f s
  | .ctz f => Sys2Proof.Machine.execCtz f s
  | .vidxC f => Sys2Proof.Machine.execVidxC f s
  | .vidx f => Sys2Proof.Machine.execVidx f s
  | .vaffC f => Sys2Proof.Machine.execVaffC f s
  | .vaff f => Sys2Proof.Machine.execVaff f s
  | .vtagC f => Sys2Proof.Machine.execVtagC f s
  | .vtag f => Sys2Proof.Machine.execVtag f s
  | .add64C f => Sys2Proof.Machine.execAdd64C f s
  | .add64 f => Sys2Proof.Machine.execAdd64 f s
  | .sub64C f => Sys2Proof.Machine.execSub64C f s
  | .sub64 f => Sys2Proof.Machine.execSub64 f s
  | .shl64C f => Sys2Proof.Machine.execShl64C f s
  | .shl64 f => Sys2Proof.Machine.execShl64 f s
  | .shr64C f => Sys2Proof.Machine.execShr64C f s
  | .shr64 f => Sys2Proof.Machine.execShr64 f s
  | .divC f => Sys2Proof.Machine.execDivC f s
  | .div f => Sys2Proof.Machine.execDiv f s
  | .divuC f => Sys2Proof.Machine.execDivuC f s
  | .divu f => Sys2Proof.Machine.execDivu f s
  | .remC f => Sys2Proof.Machine.execRemC f s
  | .rem f => Sys2Proof.Machine.execRem f s
  | .remuC f => Sys2Proof.Machine.execRemuC f s
  | .remu f => Sys2Proof.Machine.execRemu f s
  | .faddC f => Sys2Proof.Machine.execFaddC f s
  | .fadd f ty => Sys2Proof.Machine.execFadd f ty s
  | .fsubC f => Sys2Proof.Machine.execFsubC f s
  | .fsub f ty => Sys2Proof.Machine.execFsub f ty s
  | .fmulC f => Sys2Proof.Machine.execFmulC f s
  | .fmul f ty => Sys2Proof.Machine.execFmul f ty s
  | .fma f ty => Sys2Proof.Machine.execFma f ty s
  | .fms f ty => Sys2Proof.Machine.execFms f ty s
  | .fminC f => Sys2Proof.Machine.execFminC f s
  | .fmin f ty => Sys2Proof.Machine.execFmin f ty s
  | .fmaxC f => Sys2Proof.Machine.execFmaxC f s
  | .fmax f ty => Sys2Proof.Machine.execFmax f ty s
  | .fabsC f => Sys2Proof.Machine.execFabsC f s
  | .fabs f ty => Sys2Proof.Machine.execFabs f ty s
  | .fnegC f => Sys2Proof.Machine.execFnegC f s
  | .fneg f ty => Sys2Proof.Machine.execFneg f ty s
  | .fcopys f ty => Sys2Proof.Machine.execFcopys f ty s
  | .fcmpeqC f => Sys2Proof.Machine.execFcmpeqC f s
  | .fcmpeq f => Sys2Proof.Machine.execFcmpeq f s
  | .fcmpneC f => Sys2Proof.Machine.execFcmpneC f s
  | .fcmpne f => Sys2Proof.Machine.execFcmpne f s
  | .fcmpltC f => Sys2Proof.Machine.execFcmpltC f s
  | .fcmplt f => Sys2Proof.Machine.execFcmplt f s
  | .fcmpleC f => Sys2Proof.Machine.execFcmpleC f s
  | .fcmple f => Sys2Proof.Machine.execFcmple f s
  | .fcmpun f => Sys2Proof.Machine.execFcmpun f s
  | .frndC f => Sys2Proof.Machine.execFrndC f s
  | .frnd f ty => Sys2Proof.Machine.execFrnd f ty s
  | .ffloorC f => Sys2Proof.Machine.execFfloorC f s
  | .ffloor f ty => Sys2Proof.Machine.execFfloor f ty s
  | .fceilC f => Sys2Proof.Machine.execFceilC f s
  | .fceil f ty => Sys2Proof.Machine.execFceil f ty s
  | .ftruncC f => Sys2Proof.Machine.execFtruncC f s
  | .ftrunc f ty => Sys2Proof.Machine.execFtrunc f ty s
  | .fclassC f => Sys2Proof.Machine.execFclassC f s
  | .fclass f => Sys2Proof.Machine.execFclass f s
  | .cvt f dst src rnd sat => Sys2Proof.Machine.execCvt f dst src rnd sat s
  | .bfpk f m => Sys2Proof.Machine.execBfpk f m s
  | .bfpu f m => Sys2Proof.Machine.execBfpu f m s
  | .exp2C f => Sys2Proof.Machine.execExp2C f s
  | .exp2 f ty => Sys2Proof.Machine.execExp2 f ty s
  | .log2C f => Sys2Proof.Machine.execLog2C f s
  | .log2 f ty => Sys2Proof.Machine.execLog2 f ty s
  | .sinpiC f => Sys2Proof.Machine.execSinpiC f s
  | .sinpi f ty => Sys2Proof.Machine.execSinpi f ty s
  | .cospiC f => Sys2Proof.Machine.execCospiC f s
  | .cospi f ty => Sys2Proof.Machine.execCospi f ty s
  | .rsq f ty => Sys2Proof.Machine.execRsq f ty s
  | .rcp f ty => Sys2Proof.Machine.execRcp f ty s
  | .sqrt f ty => Sys2Proof.Machine.execSqrt f ty s
  | .tanh f ty => Sys2Proof.Machine.execTanh f ty s
  | .sigm f ty => Sys2Proof.Machine.execSigm f ty s
  | .act f bank ty => Sys2Proof.Machine.execAct f bank ty s
  | .actld f bank => Sys2Proof.Machine.execActld f bank s
  | .vperm f => Sys2Proof.Machine.execVperm f s
  | .vscan f op excl => Sys2Proof.Machine.execVscan f op excl s
  | .vsort f key desc => Sys2Proof.Machine.execVsort f key desc s
  | .vsortkv f key desc => Sys2Proof.Machine.execVsortkv f key desc s
  | .vargmax f key => Sys2Proof.Machine.execVargmax f key s
  | .ld f g w o => Sys2Proof.Machine.execLd f g w o s
  | .st f g w o => Sys2Proof.Machine.execSt f g w o s
  | .lds f g w o => Sys2Proof.Machine.execLds f g w o s
  | .sts f g w o => Sys2Proof.Machine.execSts f g w o s
  | .ldu f g w o => Sys2Proof.Machine.execLdu f g w o s
  | .ldf f g w o => Sys2Proof.Machine.execLdf f g w o s
  | .pref f g => Sys2Proof.Machine.execPref f g s
  | .atom f g op w64 o => Sys2Proof.Machine.execAtom f g op w64 o s
  | .red f g op w64 o => Sys2Proof.Machine.execRed f g op w64 o s
  | .redPerform n => Sys2Proof.Machine.execRedPerform n s
  | .fence f kind scope => Sys2Proof.Machine.execFence f kind scope s
  | .ldl f w => Sys2Proof.Machine.execLdl f w s
  | .stl f w => Sys2Proof.Machine.execStl f w s
  | .atoml f op o => Sys2Proof.Machine.execAtoml f op o s
  | .bnkAdd f row => Sys2Proof.Machine.execBnkAdd f row s
  | .bnkMax f row => Sys2Proof.Machine.execBnkMax f row s
  | .bnkMin f row => Sys2Proof.Machine.execBnkMin f row s
  | .bnkFadd f row bf => Sys2Proof.Machine.execBnkFadd f row bf s
  | .bnkFmax f row bf => Sys2Proof.Machine.execBnkFmax f row bf s
  | .bnkFmin f row bf => Sys2Proof.Machine.execBnkFmin f row bf s
  | .bnkFmul f row bf => Sys2Proof.Machine.execBnkFmul f row bf s
  | .bnkFma f row bf => Sys2Proof.Machine.execBnkFma f row bf s
  | .bnkXms f row => Sys2Proof.Machine.execBnkXms f row s
  | .bnkCas f row => Sys2Proof.Machine.execBnkCas f row s
  | .bnkXchg f row => Sys2Proof.Machine.execBnkXchg f row s
  | .bnkFill f row => Sys2Proof.Machine.execBnkFill f row s
  | .bulk f op shape bf obj => Sys2Proof.Machine.execBulk f op shape bf obj s
  | .bulkComplete core n => Sys2Proof.Machine.execBulkComplete core n s
  | .bcpy f rot obj => Sys2Proof.Machine.execBcpy f rot obj s
  | .bcpyComplete core n => Sys2Proof.Machine.execBcpyComplete core n s
  | .tagl f => Sys2Proof.Machine.execTagl f s
  | .tagi f => Sys2Proof.Machine.execTagi f s
  | .tagd f => Sys2Proof.Machine.execTagd f s
  | .cpy f q srcLocal dstLocal => Sys2Proof.Machine.execCpy f q srcLocal dstLocal s
  | .cpyt f out q fmt pitch centre transpose => Sys2Proof.Machine.execCpyt f out q fmt pitch centre transpose s
  | .gath f q => Sys2Proof.Machine.execGath f q s
  | .scat f q => Sys2Proof.Machine.execScat f q s
  | .scatRed f q => Sys2Proof.Machine.execScatRed f q s
  | .scatRedReduction core q n => Sys2Proof.Machine.execScatRedReduction core q n s
  | .qfence f hasObj q => Sys2Proof.Machine.execQfence f hasObj q s
  | .qfenceComplete core q => Sys2Proof.Machine.execQfenceComplete core q s
  | .engineTakesCommand die engine => Sys2Proof.Machine.execEngineTakesCommand die engine s
  | .asyncCommandComplete core q => Sys2Proof.Machine.execAsyncCommandComplete core q s
  | .arvInit f => Sys2Proof.Machine.execArvInit f s
  | .arvAdd f flags => Sys2Proof.Machine.execArvAdd f flags s
  | .arvExp f => Sys2Proof.Machine.execArvExp f s
  | .decSub f => Sys2Proof.Machine.execDecSub f s
  | .decStat f => Sys2Proof.Machine.execDecStat f s
  | .decoderRecordStart die dec => Sys2Proof.Machine.execDecoderRecordStart die dec s
  | .decoderOutputFrame die dec => Sys2Proof.Machine.execDecoderOutputFrame die dec s
  | .tdset f rdy m => Sys2Proof.Machine.execTdset f rdy m s
  | .tdget f => Sys2Proof.Machine.execTdget f s
  | .tfree f => Sys2Proof.Machine.execTfree f s
  | .mmaC f => Sys2Proof.Machine.execMmaC f s
  | .mma f => Sys2Proof.Machine.execMma f s
  | .mmaSpC f => Sys2Proof.Machine.execMmaSpC f s
  | .mmaSp f => Sys2Proof.Machine.execMmaSp f s
  | .acczC f => Sys2Proof.Machine.execAcczC f s
  | .accz f => Sys2Proof.Machine.execAccz f s
  | .accl f => Sys2Proof.Machine.execAccl f s
  | .accr f g => Sys2Proof.Machine.execAccr f g s
  | .accd f tr => Sys2Proof.Machine.execAccd f tr s
  | .matrixOperationStart core n => Sys2Proof.Machine.execMatrixOperationStart core n s
  | .matrixOperationComplete core n => Sys2Proof.Machine.execMatrixOperationComplete core n s
  | .setInsC f => Sys2Proof.Machine.execSetInsC f s
  | .setIns f => Sys2Proof.Machine.execSetIns f s
  | .setDelC f => Sys2Proof.Machine.execSetDelC f s
  | .setDel f => Sys2Proof.Machine.execSetDel f s
  | .setTestC f => Sys2Proof.Machine.execSetTestC f s
  | .setTest f => Sys2Proof.Machine.execSetTest f s
  | .setCardC f => Sys2Proof.Machine.execSetCardC f s
  | .setCard f w64 => Sys2Proof.Machine.execSetCard f w64 s
  | .setRankC f => Sys2Proof.Machine.execSetRankC f s
  | .setRank f => Sys2Proof.Machine.execSetRank f s
  | .setSelC f => Sys2Proof.Machine.execSetSelC f s
  | .setSel f => Sys2Proof.Machine.execSetSel f s
  | .setNextC f => Sys2Proof.Machine.execSetNextC f s
  | .setNext f => Sys2Proof.Machine.execSetNext f s
  | .setUnion f => Sys2Proof.Machine.execSetUnion f s
  | .setInter f => Sys2Proof.Machine.execSetInter f s
  | .setDiff f => Sys2Proof.Machine.execSetDiff f s
  | .setXcard f op => Sys2Proof.Machine.execSetXcard f op s
  | .setCopy f => Sys2Proof.Machine.execSetCopy f s
  | .setImport f repl => Sys2Proof.Machine.execSetImport f repl s
  | .setExport f => Sys2Proof.Machine.execSetExport f s
  | .setBulkStart ctx n => Sys2Proof.Machine.execSetBulkStart ctx n s
  | .setBulkComplete ctx n => Sys2Proof.Machine.execSetBulkComplete ctx n s
  | .setNew f hint => Sys2Proof.Machine.execSetNew f hint s
  | .setFree f => Sys2Proof.Machine.execSetFree f s
  | .setClear f => Sys2Proof.Machine.execSetClear f s
  | .setPin f on => Sys2Proof.Machine.execSetPin f on s
  | .setRep f => Sys2Proof.Machine.execSetRep f s
  | .setCost f => Sys2Proof.Machine.execSetCost f s
  | .setEst f q cmd => Sys2Proof.Machine.execSetEst f q cmd s
  | .emulatedOpcode w0 w1 w2 => Sys2Proof.Machine.execEmulatedOpcode w0 w1 w2 s
  | .illegalLength w0 => Sys2Proof.Machine.execIllegalLength w0 s
  | .undefinedOpcode w0 w1 w2 => Sys2Proof.Machine.execUndefinedOpcode w0 w1 w2 s
  | .trap f => Sys2Proof.Machine.execTrap f s
  | .bkpt f => Sys2Proof.Machine.execBkpt f s
  | .rett f => Sys2Proof.Machine.execRett f s
  | .movfa f cls => Sys2Proof.Machine.execMovfa f cls s
  | .movta f cls => Sys2Proof.Machine.execMovta f cls s
  | .sysr f r => Sys2Proof.Machine.execSysr f r s
  | .sysw f r => Sys2Proof.Machine.execSysw f r s
  | .icinv f => Sys2Proof.Machine.execIcinv f s
  | .pageWalkStart core ctx va => Sys2Proof.Machine.execPageWalkStart core ctx va s
  | .translationRewalk k => Sys2Proof.Machine.execTranslationRewalk k s
  | .inval => Sys2Proof.Machine.execInval s
  | .invalComplete => Sys2Proof.Machine.execInvalComplete s
  | .zmap => Sys2Proof.Machine.execZmap s
  | .zmapWriteEntries => Sys2Proof.Machine.execZmapWriteEntries s
  | .translationCommandReserved => Sys2Proof.Machine.execTranslationCommandReserved s
  | .arbitrate core slot => Sys2Proof.Machine.execArbitrate core slot s
  | .placeWorkgroup die => Sys2Proof.Machine.execPlaceWorkgroup die s
  | .takeLaunchEntry wg => Sys2Proof.Machine.execTakeLaunchEntry wg s
  | .workgroupExitFinish wg => Sys2Proof.Machine.execWorkgroupExitFinish wg s
  | .evictionStart wg => Sys2Proof.Machine.execEvictionStart wg s
  | .evictionSave wg => Sys2Proof.Machine.execEvictionSave wg s
  | .waitWake k => Sys2Proof.Machine.execWaitWake k s
  | .workgroupResumable wg => Sys2Proof.Machine.execWorkgroupResumable wg s
  | .resumeWorkgroup die => Sys2Proof.Machine.execResumeWorkgroup die s
  | .asyncTrapEvent k cause detail => Sys2Proof.Machine.execAsyncTrapEvent k cause detail s
  | .trapDeliver k => Sys2Proof.Machine.execTrapDeliver k s
  | .siblingHaltStop k => Sys2Proof.Machine.execSiblingHaltStop k s
  | .peerIngressCommand port entry key off bytes => Sys2Proof.Machine.execPeerIngressCommand port entry key off bytes s
  | .engineMasterRelease unit => Sys2Proof.Machine.execEngineMasterRelease unit s
  | .peerAckTimeout core q => Sys2Proof.Machine.execPeerAckTimeout core q s
  | .thermalLimit die on banks => Sys2Proof.Machine.execThermalLimit die on banks s
  | .freeze why => Sys2Proof.Machine.execFreeze why s
  | .boot primary secondary => Sys2Proof.Machine.execBoot primary secondary s
  | .attestationRequest nonce viaDoe => Sys2Proof.Machine.execAttestationRequest nonce viaDoe s
  | .doorbell q v => Sys2Proof.Machine.execDoorbell q v s
  | .queueEnable q v => Sys2Proof.Machine.execQueueEnable q v s
  | .queueDisable q v => Sys2Proof.Machine.execQueueDisable q v s
  | .evcauseClear v => Sys2Proof.Machine.execEvcauseClear v s
  | .registerWrite off size v => Sys2Proof.Machine.execRegisterWrite off size v s
  | .bar2Write off bytes => Sys2Proof.Machine.execBar2Write off bytes s
  | .hostLaunch q => Sys2Proof.Machine.execHostLaunch q s
  | .xlate q => Sys2Proof.Machine.execXlate q s
  | .desc q => Sys2Proof.Machine.execDesc q s
  | .preempt q => Sys2Proof.Machine.execPreempt q s
  | .preemptTimeout ctx => Sys2Proof.Machine.execPreemptTimeout ctx s
  | .withdraw q => Sys2Proof.Machine.execWithdraw q s
  | .kill q => Sys2Proof.Machine.execKill q s
  | .decarea q => Sys2Proof.Machine.execDecarea q s
  | .attach q => Sys2Proof.Machine.execAttach q s
  | .stop q => Sys2Proof.Machine.execStop q s
  | .resume q => Sys2Proof.Machine.execResume q s
  | .dbgread q => Sys2Proof.Machine.execDbgread q s
  | .dbgwrite q => Sys2Proof.Machine.execDbgwrite q s
  | .detach q => Sys2Proof.Machine.execDetach q s
  | .debugEventWrite ctx => Sys2Proof.Machine.execDebugEventWrite ctx s
  | .engineFault unit addr => Sys2Proof.Machine.execEngineFault unit addr s
  | .configurationRequest req => Sys2Proof.Machine.execConfigurationRequest req s

end Sys2Proof.Machine
end

