-- ==== Sys2Proof/Machine/Agenda.lean ====
section
/-! DEFINITION. Fetch, and the order in which the model moves its agents when its agenda names none, and the
moves themselves (R13, R28, R29, log 1). -/

namespace Sys2Proof.Machine

/-! Fetch (R13). -/

/-- The words of an instruction, or the fault of one of them with the words fetched before it (R29). -/
inductive Fetched where
  | ok (ws : List Word) | bad (cause : Nat) (addr : DWord) (got : List Word) | wait
deriving DecidableEq, Repr
/-- The word at a memory key as a warp of the context fetches it on a core: its instruction caches', from a line taken in
after the warp's last ICINV (R314), else memory's; none where it lies in a poisoned line. -/
def State.codeWord (s : State) (core ctx icinv key : Nat) : Option Word :=
  match (s.coreAt core).icache.find? fun l => l.ctx = ctx && l.line = key / 64 && icinv ≤ l.at_ with
  | some l => some (BitVec.ofNat 32 (leNat ((l.bytes.drop (key % 64)).take 4)))
  | none => if s.linePoisoned key then none else some (BitVec.ofNat 32 (leNat (s.readMem key 4)))
/-- `n` more words at `a`; a poisoned line traps as for any read (log 21). -/
def State.fetchWords (s : State) : (n : Nat) → (a : DWord) → List Word → Fetched
  | 0, _, acc => .ok acc
  | n + 1, a, acc =>
    match s.xlate s.wg.core s.wg.ctx a 4 .fetch with
    | .wait => .wait
    | .bad c => .bad c a acc
    | .ok key _ =>
      match s.codeWord s.wg.core s.wg.ctx s.warp.icinv key with
      | none => .bad 0x38 a acc
      | some w => s.fetchWords n (a + 4) (acc ++ [w])
/-- The words at an address: the first tells how many. -/
def State.fetch (s : State) (a : DWord) : Fetched :=
  match s.fetchWords 1 a [] with
  | .ok [w0] => if Word.len w0 = 3 then .ok [w0] else s.fetchWords (Word.len w0) (a + 4) [w0]
  | x => x
/-- The words of the executing warp's instruction: those that it fetched before it waited or as it was dispatched (R13), else
those at its pc. -/
def State.fetchNext (s : State) : Fetched :=
  if s.warp.fetched ≠ [] then .ok s.warp.fetched
  else match s.warp.rob with | e :: _ => .ok e.iw | [] => s.fetch s.warp.pc
/-- What decoding reads of the executing warp (R155, R258, R294). -/
def State.dctx (s : State) : DCtx :=
  let g := s.wg
  { width := g.fp.width, vregs := g.fp.vregs, sregs := g.fp.sregs, handler := s.warp.handler, coh := g.fp.coh
    member := BitVec.ofNat 16 ((List.range 16).foldl (fun n k =>
      if (g.cohort k).members.getLsbD (warpNo s.cur) then n + 2 ^ k else n) 0) }

/-! The order of the model's own (log 1); `autoPick` below. -/

/-- A row that some word encodes. -/
def wordRow (i : Instr) : Bool :=
  i.sig.isSome || i.csig.isSome ||
    match i with | .illegalLength _ | .emulatedOpcode .. | .undefinedOpcode .. => true | _ => false
/-- The warps of workgroups on cores. -/
def State.warpKeys (s : State) : List Nat := s.wgs.flatMap fun p => if p.2.onCore then p.2.keys p.1 else []
/-- The cores that hold a workgroup or anything of their own. -/
def State.coreKeys (s : State) : List Nat :=
  ((s.wgs.filterMap fun p => if p.2.onCore then some p.2.core else none) ++ Tab.keys s.cores).dedup
/-- A warp, bound or with dispatched instructions, that can go on. -/
def State.canRun (s : State) (k : Nat) : Bool :=
  let w := s.warpAt k
  (s.wgAt (wgOf k)).place = .resident && w.run = .running && !w.spent && w.stall.isNone
/-- Steps of other agents that may be enabled, in the model's order. -/
noncomputable def State.events (s : State) : List Instr :=
  let ks := s.warpKeys
  let cs := s.coreKeys
  let ns := Tab.keys s.wgs
  let xs := Tab.keys s.ctxs
  (ks.flatMap fun k => [.trapDeliver k, .waitWake k, .launchPush k, .sleepExpire k])
    ++ (if s.reds.isEmpty then [] else [.redPerform 0])
    ++ (cs.flatMap fun c => [.matrixOperationStart c 0, .matrixOperationComplete c 0, .bulkComplete c 0, .bcpyComplete c 0])
    ++ ((List.range 4).flatMap fun d => (List.range 12).map fun e => .engineTakesCommand d e)
    ++ (cs.flatMap fun c => (List.range 8).flatMap fun q =>
      [.scatRedReduction c q 0, .asyncCommandComplete c q, .qfenceComplete c q])
    ++ ((List.range 4).flatMap fun d => (List.range 4).flatMap fun i => [.decoderRecordStart d i, .decoderOutputFrame d i])
    ++ (xs.flatMap fun x => [.setBulkStart x 0, .setBulkComplete x 0, .debugEventWrite x])
    ++ [.inval, .invalComplete, .zmap, .zmapWriteEntries, .translationCommandReserved]
    ++ (ns.flatMap fun n => [.workgroupExitFinish n, .takeLaunchEntry n, .evictionStart n, .evictionSave n, .workgroupResumable n])
    ++ ((Tab.keys s.hostqs).flatMap fun q => [.hostLaunch q, .xlate q, .desc q, .preempt q, .withdraw q, .kill q, .decarea q,
      .attach q, .stop q, .resume q, .dbgread q, .dbgwrite q, .detach q])
    ++ ((List.range 4).flatMap fun d => [.resumeWorkgroup d, .placeWorkgroup d])
    ++ cs.flatMap fun c => (List.range 4).map fun i => .arbitrate c i
/-- A step would change the state. -/
noncomputable def State.changes (s : State) (i : Instr) : Bool := match exec i s with | .next t => decide (t ≠ s) | _ => false
/-! Dispatch (R246 to R248). -/

/-- S of the instruction's word (R15, R17). -/
def sBit (i : Instr) : Bool := match i.sig with | some p => p.1.s | none => i.csig.any (·.1.s)
/-- The blocking instructions (R248). -/
def blocking : Instr → Bool
  | .bar .. | .await _ | .bwait _ | .join _ | .launch _ | .ldf .. => true
  | _ => false
/-- YIELD, SLEEP, EXIT and RETT. -/
def leaving : Instr → Bool
  | .yield _ | .yieldC _ | .sleep _ | .sleepC _ | .exit _ | .exitC _ | .rett _ => true
  | _ => false
/-- An instruction after which a stint ends, its 24th apart (R246). -/
def ending (i : Instr) : Bool := sBit i || blocking i || leaving i
/-- What comes after the instruction is decided as it executes: a transfer, or a word that traps. -/
def turning : Instr → Bool
  | .jmp _ | .call _ | .calli _ | .calliC _ | .ret _ | .retC _ | .br _ | .brAny _ | .brAll _ | .brNone _ | .trap _ | .bkpt _
  | .illegalLength _ | .emulatedOpcode .. | .undefinedOpcode .. => true
  | _ => false
/-- An instruction that may wait in rename or at dispatch (R60, R67, R128, R196, R203), or that nothing is fetched or
dispatched after before it retires (R272, R310, R314): the model dispatches it only once every older one has retired
(log 31). -/
def alone (i : Instr) : Bool :=
  leaving i || match i with
  | .icinv _ | .cpy .. | .cpyt .. | .gath .. | .scat .. | .scatRed .. | .qfence .. | .tdset .. | .tfree _ | .mma _ | .mmaC _ | .mmaSp _
  | .mmaSpC _ | .accz _ | .acczC _ | .accl _ | .accr .. | .accd .. | .setIns _ | .setInsC _ | .setDel _ | .setDelC _ | .setTest _ | .setTestC _
  | .setCard .. | .setCardC _ | .setRank _ | .setRankC _ | .setSel _ | .setSelC _ | .setNext _ | .setNextC _ | .setUnion _
  | .setInter _ | .setDiff _ | .setXcard .. | .setCopy _ | .setImport .. | .setExport _ | .setNew .. | .setFree _ | .setClear _
  | .setPin .. | .setRep _ | .setCost _ | .setEst .. => true
  | _ => false
/-- What an instruction dispatched at number `n` does with the Sepia banks (R184). -/
def sepiaUse (n : Nat) : Instr → Option SepiaUse
  | .act _ bank _ => some (.act bank n)
  | .actld .. => some .load
  | _ => none
/-- An ACT is not dispatched behind an ACTLD of its own warp on the same bank before that completes (R184); the model keeps it
back behind one on either bank (log 31). -/
def Warp.behindLoad (w : Warp) (i : Instr) : Bool :=
  (match i with | .act .. => true | _ => false) && w.rob.any (·.sepia = some .load)
/-- A field that the instruction uses names the pair of vector registers that holds `r`, as a source or as the destination. -/
def namesPair (r : Reg) (i : Instr) : Bool :=
  let pair := fun q : Reg => q.toNat / 2 = r.toNat / 2
  let dst := fun (k : DK) q => (k == .v || k == .ve || k == .vBfp) && pair q
  let src := fun (k : SK) (x : Src) => k != .z && match x with | .vec q _ => pair q | _ => false
  i.sig.any (fun p => dst p.2.d p.1.d || src p.2.a p.1.a || src p.2.b p.1.b || src p.2.c p.1.c)
    || i.csig.any fun p => dst p.2.d p.1.d || dst p.2.a p.1.a || dst p.2.b p.1.b
/-- A reader of the register that a waiting ACCR is to write waits in rename (R210), and nothing is dispatched then; the model
keeps back every instruction that names the register or the other one of its pair (log 31). -/
noncomputable def State.behindAccr (s : State) (i : Instr) : Bool :=
  match s.warp.stall, s.warp.rob with
  | some (.accr _ none), e :: _ => match decode s.dctx e.iw with | .ok (.accr f _) => namesPair f.d i | _ => false
  | _, _ => false
/-- The bound warp dispatches an instruction, whose words are `ws`, at number `n` (R184, R247). -/
def Warp.dispatch (w : Warp) (n : Nat) (i : Instr) (ws : List Word) : Warp :=
  { w with
    rob := w.rob ++ [⟨ws, w.stint = some 0, blocking i, turning i, sepiaUse n i⟩]
    stint := nextStint w.stint (ending i) }
/-- The address after what the reorder buffer holds, where it is known. -/
def Warp.ahead (w : Warp) : Option DWord :=
  if w.rob.any (·.turns) then none else some (w.pc + BitVec.ofNat 64 (w.rob.map (4 * ·.iw.length)).sum)

/-! Moves. -/

/-- It waits after its dispatch: in translation (R44), an ACTLD or an ACT for the other (R184), or an ACCR for its operation
(R210). -/
def Wait.inFlight : Wait → Bool
  | .migrate | .sepia .. | .act | .accr .. => true
  | _ => false
/-- An instruction that waits in flight has been dispatched, and its slot is free if it was the last of its stint (R44, R184,
R210, R247). -/
def State.inFlight (k : Nat) (i : Instr) (ws : List Word) (s : State) : State :=
  let w := s.warpAt k
  if w.stall.any Wait.inFlight ∧ w.rob = [] ∧ w.stint.isSome then s.setWarpAt k (w.dispatch s.nextCmd i ws) else s
/-- A warp's step: stop for a halt broadcast, deliver a trap that is due, or fetch, decode and execute its next instruction
(R28, R246, R289, R295). A warp that is not on a core, or is not bound to its slot and has nothing dispatched, does nothing. -/
noncomputable def warpStep (k : Nat) (s : State) : Res :=
  let s := { s with cur := k, iw := [] }
  let w := s.warp
  if s.wg.place ≠ .resident ∨ s.wg.fp.warps ≤ warpNo k ∨ w.run ≠ .running ∨ w.sleep.isSome then .next s
  else if w.notice.any (fun n => 32 ≤ n || w.spent) then .next (s.haltStop k 0)
  else if w.raised.isSome then .next (s.deliver k)
  else if w.spent then .next s
  else if w.atBoundary ∧ !w.trapQ.isEmpty ∧ !w.handler ∧ w.notice.isNone then .next (s.deliver k)
  else match s.fetchNext with
  | .wait => .next (s.stallOn .migrate)
  | .bad c a got => .next ({ s with iw := got }.raiseW (BitVec.ofNat 8 c) a)
  | .ok ws =>
    let s := { s with iw := ws }
    match decode s.dctx ws with
    | .ok i => match exec i s with | .next t => .next (t.inFlight k i ws) | r => r
    | _ => .next (wordTrap 0x03 s)

/-- The warp's LDF is checked and waits for its data (R233): the warp blocks, and executes it afresh once it wakes, under the
translations that it has obtained (R43). With exec
empty it reads nothing and waits for nothing. -/
noncomputable def farWait (k : Nat) (s : State) : State :=
  let w := s.warpAt k
  let s1 := { s with cur := k, iw := [] }
  if !s.canRun k ∨ w.exec = 0 then s
  else match s1.fetchNext, warpStep k s with
  | .ok ws, .next t =>
    match decode s1.dctx ws with
    | .ok (.ldf f g ..) =>
      let u := t.warpAt k
      if u.run = .running ∧ u.handler = w.handler ∧ u.trapQ = w.trapQ ∧ u.stall = none
        ∧ u.pc = w.pc + BitVec.ofNat 64 (opd f).len
      then { s1 with iw := ws }.ldfBlock g (opd f) else s
    | _ => s
  | _, _ => s
/-- The slot's bound warp dispatches its next instruction into its reorder buffer, of 48 entries, ahead of the older ones'
retirement (R157, R247, R248, R295). Nothing is dispatched behind an instruction that waits in rename or at dispatch, or behind
one that decides what comes next, nor in a warp that has a fault raised (R290). -/
noncomputable def dispatched (k : Nat) (s : State) : State :=
  let s1 : State := { s with cur := k }
  let w := s.warpAt k
  if (s.wgAt (wgOf k)).place = .resident ∧ w.run = .running ∧ w.sleep = none ∧ w.raised = none ∧ w.stint.isSome ∧ w.rob.length < 48
      ∧ (w.rob = [] → w.stall = none) then
    match w.ahead.elim .wait s1.fetch with
    | .ok ws =>
      match decode s1.dctx ws with
      | .ok i => if alone i || w.behindLoad i || s1.behindAccr i then s else s.setWarpAt k (w.dispatch s.nextCmd i ws)
      | _ => s
    | _ => s
  else s

/-- The bound warp's instruction waits, and trying it again now would end the wait, or take it on to another: an ACCR that waited
for a full queue enters it, and then waits for its value (R210). -/
noncomputable def State.retryClears (s : State) (k : Nat) : Bool :=
  (s.warpAt k).stall.isSome && !(s.warpAt k).spent
    && match warpStep k s with | .next t => (t.warpAt k).stall ≠ (s.warpAt k).stall | _ => false
/-- The first move of the fixed order: a warp told to halt stops; a bound warp goes on; an enabled step of another agent;
a warp whose instruction waits and can go on tries again; a clock of each core in turn; nothing. -/
noncomputable def State.autoPick (s : State) : Pick :=
  match s.warpKeys.find? fun k => s.changes (.siblingHaltStop k) with
  | some k => .event (.siblingHaltStop k)
  | none => match s.warpKeys.find? s.canRun with
  | some k => .warp k
  | none => match s.events.find? s.changes with
  | some i => .event i
  | none => match s.warpKeys.find? s.retryClears with
  | some k => if (s.warpAt k).stall = some .migrate then .event (.translationRewalk k) else .warp k
  | none => match s.coreKeys with
  | c :: cs => .clocks ((cs.find? fun d => (s.coreAt d).clk < (s.coreAt c).clk).getD c) 1
  | [] => .idle

/-- What goes on while every clock outside the management domain has stopped (R305): its answers to requests. -/
def management : Instr → Bool
  | .attestationRequest .. | .configurationRequest _ => true
  | _ => false

/-- A hardware error strikes (R96, R302): a line of memory or of a set becomes poison, or a scratchpad word fails its next
check. -/
def upset (u : Upset) (s : State) : State :=
  match u with
  | .line n => if 3 * 2 ^ 46 ≤ n then s else s.poisonLine (64 * n)
  | .word core n again =>
    let c := s.coreAt core
    if 256 ≤ core || 2 ^ 16 ≤ n || c.poison.contains n || c.latent.any (·.1 = n) then s
    else s.setCoreAt core { c with latent := c.latent ++ [(n, again)] }
  | .set ctx i =>
    let c := s.ctxAt ctx
    let e := c.set i
    if e.v && !e.lost then s.setCtxAt ctx { c with sets := Tab.put {} i { e with poison := true } c.sets } else s

/-- A core's instruction caches take a line in as memory holds it now, or let it go (R13, R314). -/
def codeLine (core ctx line : Nat) (keep : Bool) (s : State) : State :=
  if 256 ≤ core || 4096 ≤ ctx || 3 * 2 ^ 46 ≤ line then s
  else
    let c := s.coreAt core
    let rest := c.icache.filter fun l => l.ctx ≠ ctx || l.line ≠ line
    s.setCoreAt core { c with icache :=
      if keep && !s.linePoison.contains line then rest ++ [⟨ctx, line, s.readMem (64 * line) 64, s.icinvs⟩] else rest }

/-- The move that is picked. -/
noncomputable def move (p : Pick) (s : State) : Res :=
  match p with
  | .event i =>
    if wordRow i then .fault .agendaNotAStep else if s.frozen && !management i then .next s else exec i s
  | .warp k => if s.frozen then .next s else warpStep k s
  | .farWait k => if s.frozen then .next s else .next (farWait k s)
  | .clocks c n =>
    if s.frozen || 256 ≤ c then .next s
    else .next ((s.holdQueues c n).setCoreAt c { s.coreAt c with clk := (s.coreAt c).clk + n })
  | .hostWrite off bytes => if s.frozen then .next s else .next (s.hostStore (memKey 2 (off % 2 ^ 52)) (bytes.take (2 ^ 52 - off % 2 ^ 52)))
  | .upset u => if s.frozen then .next s else .next (upset u s)
  | .codeLine c x l keep => if s.frozen then .next s else .next (codeLine c x l keep s)
  | .dispatched k => if s.frozen then .next s else .next (dispatched k s)
  | .idle => .next s

/-! Replay capture mode (R306; log 26). -/

/-- Some context is in replay capture mode. -/
def State.inReplay (s : State) : Bool := s.ctxs.any fun p => p.2.registered && p.2.replay
/-- A step that the outside world takes: the host, a peer, the management domain, or a fault of the hardware. -/
def outsideEvent : Instr → Bool
  | .asyncTrapEvent .. | .peerIngressCommand .. | .engineMasterRelease _ | .peerAckTimeout .. | .thermalLimit .. | .freeze _
  | .boot .. | .attestationRequest .. | .doorbell .. | .queueEnable .. | .queueDisable .. | .evcauseClear _
  | .registerWrite .. | .bar2Write .. | .preemptTimeout _ | .engineFault .. | .configurationRequest _ => true
  | _ => false
def Pick.outside : Pick → Bool
  | .hostWrite .. | .upset _ => true
  | .event i => outsideEvent i
  | _ => false
/-- Who moves next, and the state without it in its lists: the agenda's head, else an input supplied to a rerun whose point
has come, else the model's own pick. In replay capture mode every move that is no boundary input is the model's own pick: the
fixed order. -/
noncomputable def State.next (s : State) : Pick × State :=
  match s.agenda with
  | p :: r => (if s.inReplay && !p.outside then s.autoPick else p, { s with agenda := r })
  | [] =>
    match s.supply with
    | (n, p) :: r => if s.inReplay && n ≤ s.moves then (p, { s with supply := r }) else (s.autoPick, s)
    | [] => (s.autoPick, s)
/-- In replay capture mode a boundary input is recorded with the point at which it enters, and other moves are counted. -/
def State.logMove (p : Pick) (s : State) : State :=
  if !s.inReplay then s
  else if p.outside then { s with inputs := s.inputs ++ [(s.moves, p)] } else { s with moves := s.moves + 1 }
/-- A rerun: a state of the same beginning, with the inputs that the captured run recorded supplied. -/
def State.rerun (captured : State) (s : State) : State := { s with supply := captured.inputs }

end Sys2Proof.Machine
end

