-- ==== Sys2Proof/Machine/Step.lean ====
section
/-! DEFINITION. One step of the package: the agent that the agenda names moves, or the one that the model's own order
picks. -/

namespace Sys2Proof.Machine

/-- One step: the next move, recorded or counted where a context captures for replay. -/
noncomputable def step (s : State) : Host.Outcome State Fault Refusal := move s.next.1 (s.next.2.logMove s.next.1)

/-! Placing an instruction (the host's question): a context, its page table, one workgroup of one warp, and its code. -/

/-- Where the instruction's bytes lie, and what maps them: near-tier offsets of the frame and of the three tables. -/
def codeVa : DWord := 0x400000
def codeFrame : Nat := 0x80000
def rootTable : Nat := 0x8000
def midTable : Nat := 0x10000
def leafTable : Nat := 0x18000
/-- The workgroup's footprint: one 64-lane warp with every register, tile and accumulator. -/
def codeFootprint : Footprint :=
  { entry := codeVa, width := 64, vregs := 64, sregs := 64, tiles := 16, accs := 16, loc := 4096, tags := 16 }
/-- The state with the instruction stored where the next step fetches it: the bytes, the page that maps them for context
0, and one bound warp of a fresh workgroup, first on the agenda (log 27). -/
def State.withFetchWord (s : State) (nbits w : Nat) : State :=
  let n := s.nextWg
  let q := s.nextSeq
  let f := codeFootprint
  let g : Wg := { seq := q, fp := f, alloc := allocSize f.loc f.warps, cohorts := [(0, f.cohortFill 0)] }
  let s := ((s.writeMem codeFrame ((tableWords nbits w).flatMap wordBytes)).writeMem (rootTable)
    (leBytes 8 (midTable + 1))).writeMem midTable (leBytes 8 (leafTable + 1))
  let s := s.writeMem (leafTable + 8 * (codeVa.toNat / 2 ^ 19)) (leBytes 8 (codeFrame + 0x1F))
  let s := (s.setCtxAt 0 { s.ctxAt 0 with registered := true, root := rootTable }).setGridAt q
    { fp := f, next := 1 }
  let s := ({ s with nextWg := n + 1, nextSeq := q + 1 } : State).setWgAt n g
  let s := s.setWarpAt (32 * n) { startWarp f 0 0 0 false with stint := some 0 }
  { s with agenda := [.warp (32 * n)] }

end Sys2Proof.Machine
end

