-- ==== Sys2Proof/Safety.lean ====
section
/-! DEFINITION. What claims are stated in: the canonical form of memory and of the state, what a completed instruction
leaves unchanged, and the lane-by-lane tables of results that the rules give. -/

namespace Sys2Proof.Machine

/-! Invariants. -/

/-- Memory's canonical form: addresses strictly rising, and no entry equal to what an unlisted address reads as. -/
abbrev Memory.wf (m : Tab Byte) : Bool := Tab.wf 0 m
/-- The state's memory has it. -/
def State.memWf (s : State) : Prop := Memory.wf s.mem = true
/-- Every core's scratchpad has the canonical form. -/
def State.padWf (s : State) : Prop := ∀ c, Tab.wf 0 (s.coreAt c).pad = true
/-- The device has been frozen, or its boot has failed (R305, R325). -/
def State.stopped (s : State) : Prop := s.frozen = true

/-! Frames. -/

/-- Nothing but the registers of the executing warp differs: every other warp, every workgroup, core, die, context, grid,
queue and byte of memory is as before. -/
def State.onlyWarp (s t : State) : Prop :=
  t = { s with warps := t.warps } ∧ ∀ k, k ≠ s.cur → t.warpAt k = s.warpAt k
/-- Every byte of memory reads as before. -/
def State.memKept (s t : State) : Prop := ∀ a n, t.readMem a n = s.readMem a n
/-- Every byte of every scratchpad reads as before. -/
def State.padKept (s t : State) : Prop := ∀ c p n, t.padRead c p n = s.padRead c p n
/-- The executing warp after it has completed an instruction with operands `o`, from `w` before and with the registers of
`w'`: the pc at the next instruction, no wait, and one more skid if it has been told to halt; the oldest of the reorder buffer
has left it, and an instruction that was not dispatched ahead counts in the stint that its slot has bound the warp for, which
ends with S or after 24 (R12, R157, R246, R247, R295). -/
def completed (o : Opd) (w w' : Warp) (ends : Bool) : Warp :=
  { w' with
    pc := w.pc + BitVec.ofNat 64 o.len
    stall := none
    fetched := []
    held := none
    rob := w.rob.tail
    stint := if w.rob = [] then w.stint.bind fun n => if ends ∨ 24 ≤ n + 1 then none else some (n + 1) else w.stint
    notice := w.notice.map (· + 1) }
/-- The executing warp completed an instruction that only changed its registers, to those of `w'`. -/
def Completes (o : Opd) (w' : Warp) (s t : State) : Prop :=
  t.warp = completed o s.warp w' o.s ∧ s.onlyWarp t ∧ s.memKept t ∧ s.padKept t
/-- Scalar registers: only register `d` of the mode's bank differs, and nothing else of the warp. -/
def Warp.onlyScalar (d : Reg) (w w' : Warp) : Prop :=
  w' = { w with s := w'.s, hs := w'.hs } ∧ (∀ r, r ≠ d → readS w' r = readS w r)
    ∧ (if w.handler then w'.s = w.s else w'.hs = w.hs)
/-- Vector registers: only those listed of the mode's bank differ, and nothing else of the warp. -/
def Warp.onlyVector (ds : List Reg) (w w' : Warp) : Prop :=
  w' = { w with v := w'.v, hv := w'.hv } ∧ (∀ r, r ∉ ds → readV w' r = readV w r)
    ∧ (if w.handler then w'.v = w.v else w'.hv = w.hv)
/-- A scalar destination reads as `v`, but s0, which reads 0 (R6, R168, R294). -/
def Warp.gives (w' : Warp) (d : Reg) (v : DWord) : Prop := readS w' d = if d = 0 ∧ w'.handler = false then 0 else v
/-- The lane whose sources lane `l` takes: lane 0 under U (R30). -/
def bodyLane (u : Bool) (l : Nat) : Nat := if u then 0 else l
/-- Under exec, register `d` holds `f` in the active lanes and what it held in the others (R30, R162). A warp has at most 64
lanes (R154). -/
def Warp.givesLanes (w w' : Warp) (width : Nat) (u : Bool) (d : Reg) (f : Nat → Word) : Prop :=
  ∀ l, l < width → l < 64 → (readV w' d).lane l = if w.active l then f (bodyLane u l) else (readV w d).lane l

/-! What the patterns of the float formats stand for, and what rounding to one is (R45, R55, R57, R58, R177). -/

/-- What a pattern stands for: a NaN, an infinity, or a number, whose sign tells the two zeros apart. -/
inductive Datum where
  | nan | inf (neg : Bool) | num (neg : Bool) (v : ℝ)
/-- The sign bit as a pattern. -/
def FFmt.sign (f : FFmt) (neg : Bool) : Nat := if neg then f.signW else 0
/-- The magnitude of a finite pattern (R45). -/
noncomputable def FFmt.magnitude (f : FFmt) (b : Nat) : ℝ :=
  let e := b % f.signW / 2 ^ f.mb
  let m := b % 2 ^ f.mb
  if e = 0 then m * 2 ^ (1 - (f.bias : ℤ) - f.mb) else (2 ^ f.mb + m) * 2 ^ ((e : ℤ) - f.bias - f.mb)
/-- What a pattern stands for; under FTZ a subnormal is a zero of its sign (R55). -/
noncomputable def FFmt.datum (f : FFmt) (ftz : Bool) (b : Nat) : Datum :=
  let neg := decide (b / f.signW % 2 = 1)
  let g := b % f.signW
  if ftz = true ∧ g < 2 ^ f.mb then .num neg 0
  else if f.inf = some g then .inf neg
  else if f.maxB < g then .nan
  else .num neg (if neg then -f.magnitude b else f.magnitude b)
/-- `n` is the magnitude `x` of a number of sign `neg`, rounded to a whole number. -/
def roundsTo (rm : RM) (neg : Bool) (x : ℝ) (n : Nat) : Prop :=
  let down := (n : ℝ) ≤ x ∧ x < n + 1
  let up := x ≤ (n : ℝ) ∧ (n : ℝ) < x + 1
  match rm with
  | .rne => |x - n| ≤ 1 / 2 ∧ (|x - n| = 1 / 2 → n % 2 = 0)
  | .rtz => down
  | .rup => if neg then down else up
  | .rdn => if neg then up else down
/-- `b` is the number of sign `neg` and magnitude `x`, not 0, rounded once to the format: `2^k` is the greatest power of two in
`x`, and the step that of its binade or of the subnormals. A rounded magnitude above the largest finite overflows: to infinity, or
the NaN of a format without one, where the direction leads away from zero and SAT is off, else to the largest finite value. -/
def FFmt.rounds (f : FFmt) (rm : RM) (sat neg : Bool) (x : ℝ) (b : Nat) : Prop :=
  ∃ (k : ℤ) (n : Nat), (2 : ℝ) ^ k ≤ x ∧ x < 2 ^ (k + 1) ∧
    let step : ℝ := 2 ^ max (k - f.mb) (1 - (f.bias : ℤ) - f.mb)
    let away := match rm with | .rne => true | .rtz => false | .rup => !neg | .rdn => neg
    roundsTo rm neg (x / step) n
      ∧ (n * step ≤ f.magnitude f.maxB → ∃ g, g ≤ f.maxB ∧ f.magnitude g = n * step ∧ b = f.sign neg + g)
      ∧ (f.magnitude f.maxB < n * step →
          b = if away && !sat then (match f.inf with | some i => f.sign neg + i | none => f.nan) else f.sign neg + f.maxB)
/-- `b` is the datum written in the format: NaN as the canonical one, an infinity with SAT, or in a format that has none, as an
overflow, and a number rounded once, then flushed under FTZ (R55, R57, R58). -/
def FFmt.writes (f : FFmt) (rm : RM) (sat ftz : Bool) (d : Datum) (b : Nat) : Prop :=
  match d with
  | .nan => b = f.nan
  | .inf neg => b = if sat then f.sign neg + f.maxB else match f.inf with | some i => f.sign neg + i | none => f.nan
  | .num neg v =>
    (v = 0 → b = f.sign neg)
      ∧ (v ≠ 0 → ∃ r, f.rounds rm sat neg |v| r ∧ b = if ftz = true ∧ r % f.signW < 2 ^ f.mb then f.sign neg else r)
/-- IEEE 754 addition and multiplication before the rounding: an exact zero sum has the sign that both addends share, if both are
zeros, else that of the direction (R177). -/
noncomputable def Datum.add (rm : RM) : Datum → Datum → Datum
  | .nan, _ | _, .nan => .nan
  | .inf a, .inf b => if a = b then .inf a else .nan
  | .inf a, .num .. | .num .., .inf a => .inf a
  | .num a x, .num b y =>
    if x + y = 0 then .num (if x = 0 ∧ a = b then a else rm = .rdn) 0 else .num (decide (x + y < 0)) (x + y)
noncomputable def Datum.mul : Datum → Datum → Datum
  | .nan, _ | _, .nan => .nan
  | .inf a, .inf b => .inf (a != b)
  | .inf a, .num b v | .num b v, .inf a => if v = 0 then .nan else .inf (a != b)
  | .num a x, .num b y => .num (a != b) (x * y)
def Datum.negate : Datum → Datum
  | .nan => .nan
  | .inf a => .inf (!a)
  | .num a v => .num (!a) (-v)
/-- The datum with a sign, unless it is a NaN. -/
def Datum.signed (neg : Bool) : Datum → Datum
  | .nan => .nan
  | .inf _ => .inf neg
  | .num _ v => .num neg (if neg then -|v| else |v|)
/-- The order of the data that are not NaN: −0 and +0 are equal (R179, R188). -/
def Datum.lt : Datum → Datum → Prop
  | .nan, _ | _, .nan => False
  | .inf a, .inf b => a = true ∧ b = false
  | .inf a, .num .. => a = true
  | .num .., .inf b => b = false
  | .num _ x, .num _ y => x < y
/-- The order of minimumNumber and maximumNumber, in which −0 comes before +0 (R178). -/
def Datum.before : Datum → Datum → Prop
  | .num a x, .num b y => x < y ∨ x = y ∧ x = 0 ∧ a = true ∧ b = false
  | x, y => x.lt y
/-- A special function of a datum where R180 and R181 give its value exactly, or as a root or a reciprocal. -/
noncomputable def Datum.special (fn : SpecialFn) : Datum → Option Datum
  | .nan => some .nan
  | .inf neg => some (match fn with
    | .exp2 => if neg then .num false 0 else .inf false
    | .log2 | .sqrt => if neg then .nan else .inf false
    | .sinpi | .cospi => .nan
    | .rsq => if neg then .nan else .num false 0
    | .rcp => .num neg 0
    | .tanh => .num neg (if neg then -1 else 1)
    | .sigm => .num false (if neg then 0 else 1))
  | .num neg v => match fn with
    | .exp2 => if v = ⌊v⌋ then some (.num false (2 ^ ⌊v⌋)) else none
    | .log2 => if v = 0 then some (.inf true) else if v < 0 then some .nan
        else if v = 2 ^ Int.log 2 v then some (.num (decide (Int.log 2 v < 0)) (Int.log 2 v)) else none
    | .sinpi => if v = ⌊v⌋ then some (.num neg 0)
        else if v - ⌊v⌋ = 1 / 2 then some (if ⌊v⌋ % 2 = 0 then .num false 1 else .num true (-1)) else none
    | .cospi => if v = ⌊v⌋ then some (if ⌊v⌋ % 2 = 0 then .num false 1 else .num true (-1))
        else if v - ⌊v⌋ = 1 / 2 then some (.num false 0) else none
    | .rsq => some (if v = 0 then .inf neg else if v < 0 then .nan else .num false (1 / Real.sqrt v))
    | .rcp => some (if v = 0 then .inf neg else .num neg (1 / v))
    | .sqrt => some (if v < 0 then .nan else .num neg (Real.sqrt v))
    | .tanh => if v = 0 then some (.num neg 0) else none
    | .sigm => if v = 0 then some (.num false (1 / 2)) else none
/-- The datum of a source element of CVT: of a float its pattern's, of an integer its value (R58). -/
noncomputable def srcDatum (src : Fmt) (ftz : Bool) (x : Word) : Datum :=
  let int := fun v : Int => Datum.num (decide (v < 0)) v
  match src with
  | .f32 => F32.datum ftz x.toNat
  | .f16 | .f16x2 => F16.datum ftz (x.toNat % 2 ^ 16)
  | .bf16 | .bf16x2 => BF16.datum ftz (x.toNat % 2 ^ 16)
  | .e4m3 => E4M3.datum ftz (x.toNat % 2 ^ 8)
  | .e5m2 => E5M2.datum ftz (x.toNat % 2 ^ 8)
  | .i32 => int x.toInt
  | .u32 => int x.toNat
  | .i8 => int (x.setWidth 8).toInt
  | .u8 => int (x.toNat % 2 ^ 8)
  | .i4 => int (x.setWidth 4).toInt
/-- `b` is a datum converted to a destination element (R58): a float written, an integer rounded and saturated. -/
def converted (dst : Fmt) (rm : RM) (sat ftz : Bool) (d : Datum) (b : Nat) : Prop :=
  let int := fun lo hi : Int => match d with
    | .nan => b = 0
    | .inf neg => b = (BitVec.ofInt 32 (if neg then lo else hi)).toNat
    | .num neg v => ∃ n : Nat, roundsTo rm neg |v| n ∧ b = (BitVec.ofInt 32 (max lo (min hi (if neg then -n else n)))).toNat
  match dst with
  | .f32 => F32.writes rm sat ftz d b
  | .f16 | .f16x2 => F16.writes rm sat ftz d b
  | .bf16 | .bf16x2 => BF16.writes rm sat ftz d b
  | .e4m3 => E4M3.writes rm sat ftz d b
  | .e5m2 => E5M2.writes rm sat ftz d b
  | .i32 => int (-2 ^ 31) (2 ^ 31 - 1)
  | .u32 => int 0 (2 ^ 32 - 1)
  | .i8 => int (-128) 127
  | .u8 => int 0 255
  | .i4 => int (-8) 7

/-! The results of the rules, by instruction. -/

/-- Scalar instructions (R169, R170): operands and result. -/
def scalarRow : Instr → Option (Opd × (DWord → DWord → DWord → DWord))
  | .sadd f => some (opd f, fun a b _ => a + b)
  | .saddC f => some (copdSS f, fun a b _ => a + b)
  | .ssub f => some (opd f, fun a b _ => a - b)
  | .ssubC f => some (copdSS f, fun a b _ => a - b)
  | .smul f => some (opd f, fun a b _ => a * b)
  | .smulC f => some (copdSS f, fun a b _ => a * b)
  | .smulh f => some (opd f, fun a b _ => BitVec.ofInt 64 (a.toInt * b.toInt / 2 ^ 64))
  | .smulhC f => some (copdSS f, fun a b _ => BitVec.ofInt 64 (a.toInt * b.toInt / 2 ^ 64))
  | .smulhu f => some (opd f, fun a b _ => BitVec.ofNat 64 (a.toNat * b.toNat / 2 ^ 64))
  | .sand f => some (opd f, fun a b _ => a &&& b)
  | .sandC f => some (copdSS f, fun a b _ => a &&& b)
  | .sor f => some (opd f, fun a b _ => a ||| b)
  | .sorC f => some (copdSS f, fun a b _ => a ||| b)
  | .sxor f => some (opd f, fun a b _ => a ^^^ b)
  | .sxorC f => some (copdSS f, fun a b _ => a ^^^ b)
  | .sandn f => some (opd f, fun a b _ => a &&& ~~~b)
  | .sandnC f => some (copdSS f, fun a b _ => a &&& ~~~b)
  | .sshl f => some (opd f, fun a b _ => a <<< (b.toNat % 64))
  | .sshlC f => some (copdSS f, fun a b _ => a <<< (b.toNat % 64))
  | .sshr f => some (opd f, fun a b _ => a >>> (b.toNat % 64))
  | .sshrC f => some (copdSS f, fun a b _ => a >>> (b.toNat % 64))
  | .ssra f => some (opd f, fun a b _ => BitVec.ofInt 64 (a.toInt / 2 ^ (b.toNat % 64)))
  | .ssraC f => some (copdSS f, fun a b _ => BitVec.ofInt 64 (a.toInt / 2 ^ (b.toNat % 64)))
  | .srot f => some (opd f, fun a b _ => a <<< (b.toNat % 64) ||| a >>> (64 - b.toNat % 64))
  | .srotC f => some (copdSS f, fun a b _ => a <<< (b.toNat % 64) ||| a >>> (64 - b.toNat % 64))
  | .smin f => some (opd f, fun a b _ => if a.toInt ≤ b.toInt then a else b)
  | .sminC f => some (copdSS f, fun a b _ => if a.toInt ≤ b.toInt then a else b)
  | .smax f => some (opd f, fun a b _ => if a.toInt ≤ b.toInt then b else a)
  | .smaxC f => some (copdSS f, fun a b _ => if a.toInt ≤ b.toInt then b else a)
  | .sminu f => some (opd f, fun a b _ => if a.toNat ≤ b.toNat then a else b)
  | .sminuC f => some (copdSS f, fun a b _ => if a.toNat ≤ b.toNat then a else b)
  | .smaxu f => some (opd f, fun a b _ => if a.toNat ≤ b.toNat then b else a)
  | .smaxuC f => some (copdSS f, fun a b _ => if a.toNat ≤ b.toNat then b else a)
  | .sdiv f => some (opd f, fun a b _ => if b = 0 then -1 else BitVec.ofInt 64 (a.toInt.tdiv b.toInt))
  | .sdivC f => some (copdSS f, fun a b _ => if b = 0 then -1 else BitVec.ofInt 64 (a.toInt.tdiv b.toInt))
  | .sdivu f => some (opd f, fun a b _ => if b = 0 then -1 else BitVec.ofNat 64 (a.toNat / b.toNat))
  | .sdivuC f => some (copdSS f, fun a b _ => if b = 0 then -1 else BitVec.ofNat 64 (a.toNat / b.toNat))
  | .srem f => some (opd f, fun a b _ => if b = 0 then a else BitVec.ofInt 64 (a.toInt.tmod b.toInt))
  | .sremC f => some (copdSS f, fun a b _ => if b = 0 then a else BitVec.ofInt 64 (a.toInt.tmod b.toInt))
  | .sremu f => some (opd f, fun a b _ => if b = 0 then a else BitVec.ofNat 64 (a.toNat % b.toNat))
  | .sremuC f => some (copdSS f, fun a b _ => if b = 0 then a else BitVec.ofNat 64 (a.toNat % b.toNat))
  | .scmpeq f => some (opd f, fun a b _ => if a = b then 1 else 0)
  | .scmpeqC f => some (copdSS f, fun a b _ => if a = b then 1 else 0)
  | .scmpne f => some (opd f, fun a b _ => if a = b then 0 else 1)
  | .scmpneC f => some (copdSS f, fun a b _ => if a = b then 0 else 1)
  | .scmplt f => some (opd f, fun a b _ => if a.toInt < b.toInt then 1 else 0)
  | .scmpltC f => some (copdSS f, fun a b _ => if a.toInt < b.toInt then 1 else 0)
  | .scmpltu f => some (opd f, fun a b _ => if a.toNat < b.toNat then 1 else 0)
  | .scmpltuC f => some (copdSS f, fun a b _ => if a.toNat < b.toNat then 1 else 0)
  | .scmple f => some (opd f, fun a b _ => if a.toInt ≤ b.toInt then 1 else 0)
  | .scmpleu f => some (opd f, fun a b _ => if a.toNat ≤ b.toNat then 1 else 0)
  | .smov f => some (opd f, fun a _ _ => a)
  | .smovC f => some (copdS f, fun a _ _ => a)
  | .ssel f => some (opd f, fun a b c => if c = 0 then b else a)
  | .spop f => some (opd f, fun a _ _ => BitVec.ofNat 64 (popcount 64 a.toNat))
  | .spopC f => some (copdS f, fun a _ _ => BitVec.ofNat 64 (popcount 64 a.toNat))
  | .sclz f => some (opd f, fun a _ _ => BitVec.ofNat 64 (clz 64 a.toNat))
  | .sclzC f => some (copdS f, fun a _ _ => BitVec.ofNat 64 (clz 64 a.toNat))
  | .sctz f => some (opd f, fun a _ _ => BitVec.ofNat 64 (ctz 64 a.toNat))
  | .mfirst f => some (opd f, fun a _ _ => BitVec.ofNat 64 (ctz 64 a.toNat))
  | _ => none

/-- The instructions that write exec (R171, R172): operands; whether D receives exec; and exec after, before it is cut to
W bits, from 2^W − 1, exec, D and A before. -/
def maskRow : Instr → Option (Opd × Bool × (DWord → DWord → DWord → DWord → DWord))
  | .exwr f => some (opd f, false, fun _ _ _ a => a)
  | .exwrC f => some (copdS f, false, fun _ _ _ a => a)
  | .exand f => some (opd f, false, fun _ e _ a => e &&& a)
  | .exandC f => some (copdS f, false, fun _ e _ a => e &&& a)
  | .exandn f => some (opd f, false, fun _ e _ a => e &&& ~~~a)
  | .exandnC f => some (copdS f, false, fun _ e _ a => e &&& ~~~a)
  | .maskIf f => some (opd f, true, fun _ e _ a => e &&& a)
  | .maskIfC f => some (copdS f, true, fun _ e _ a => e &&& a)
  | .maskElse f => some (opd f, false, fun _ _ d a => d &&& ~~~a)
  | .maskElseC f => some (copdS f, false, fun _ _ d a => d &&& ~~~a)
  | .maskEnd f => some (opd f, false, fun _ _ d _ => d)
  | .maskEndC f => some (copdN f, false, fun _ _ d _ => d)
  | .maskLoop f => some (opd f, false, fun m e d a => if e &&& a &&& m = 0 then d else e &&& a)
  | .maskLoopC f => some (copdS f, false, fun m e d a => if e &&& a &&& m = 0 then d else e &&& a)
  | _ => none

/-- The signed and unsigned ranges that ADDS, SUBS, ADDUS and SUBUS saturate to (R173). -/
def clampS (v : Int) : Word := BitVec.ofInt 32 (max (-2 ^ 31) (min v (2 ^ 31 - 1)))
def clampU (v : Int) : Word := BitVec.ofInt 32 (max 0 (min v (2 ^ 32 - 1)))

/-- What an integer instruction computes of three lane values (R173). -/
abbrev LaneFn := Word → Word → Word → Word
/-- The same, with the warp for fmode. -/
abbrev WLaneFn := Warp → Word → Word → Word → Word
/-- The fields of a source list with their indexes. -/
def srcsOf (l : List Src) : List USrc := l.zipIdx.map fun p => (p.2, p.1, false)

/-- EXRD, in both its forms (R172). -/
def execReadRow : Instr → Option Opd
  | .exrd f => some (opd f)
  | .exrdC f => some (copdN f)
  | _ => none
/-- VIDX and VAFF (R175): operands, base and stride. -/
def affineRow (w : Warp) : Instr → Option (Opd × Word × Word)
  | .vidx f => some (opd f, 0, 1)
  | .vidxC f => some (copdN f, 0, 1)
  | .vaff f => some (opd f, (sval w f.a).setWidth 32, (sval w f.b).setWidth 32)
  | .vaffC f => some (copdSS f, (readS w f.a).setWidth 32, (readS w f.b).setWidth 32)
  | _ => none
/-- VTAG (R175): operands and the register asked about. -/
def vtagRow : Instr → Option (Opd × Reg)
  | .vtag f => some (opd f, BitVec.ofNat 6 (numOf f.a))
  | .vtagC f => some (copdV f, f.a)
  | _ => none
/-- The code of a tag (R160, R175). -/
def tagNumber (v : VReg) : DWord := match v with | .uni _ => 0 | .aff .. => 1 | .gen _ => 2
/-- Vector integer instructions of 32-bit lanes (R173, R174): operands, vector sources, and the lane's result. -/
def intRow : Instr → Option (Opd × List USrc × LaneFn)
  | .add f => some (opd f, srcsOf [f.a, f.b], fun x y _ => x + y)
  | .addC f => some (copdVV f, srcsOf [.vec f.a .ident, .vec f.b .ident], fun x y _ => x + y)
  | .sub f => some (opd f, srcsOf [f.a, f.b], fun x y _ => x - y)
  | .subC f => some (copdVV f, srcsOf [.vec f.a .ident, .vec f.b .ident], fun x y _ => x - y)
  | .mul f => some (opd f, srcsOf [f.a, f.b], fun x y _ => x * y)
  | .mulC f => some (copdVV f, srcsOf [.vec f.a .ident, .vec f.b .ident], fun x y _ => x * y)
  | .mulh f => some (opd f, srcsOf [f.a, f.b], fun x y _ => BitVec.ofInt 32 (x.toInt * y.toInt / 2 ^ 32))
  | .mulhC f => some (copdVV f, srcsOf [.vec f.a .ident, .vec f.b .ident], fun x y _ => BitVec.ofInt 32 (x.toInt * y.toInt / 2 ^ 32))
  | .mulhu f => some (opd f, srcsOf [f.a, f.b], fun x y _ => BitVec.ofNat 32 (x.toNat * y.toNat / 2 ^ 32))
  | .mad f => some (opd f, srcsOf [f.a, f.b, f.c], fun x y z => x * y + z)
  | .adds f => some (opd f, srcsOf [f.a, f.b], fun x y _ => clampS (x.toInt + y.toInt))
  | .subs f => some (opd f, srcsOf [f.a, f.b], fun x y _ => clampS (x.toInt - y.toInt))
  | .addus f => some (opd f, srcsOf [f.a, f.b], fun x y _ => clampU (x.toNat + y.toNat))
  | .subus f => some (opd f, srcsOf [f.a, f.b], fun x y _ => clampU ((x.toNat : Int) - y.toNat))
  | .and f => some (opd f, srcsOf [f.a, f.b], fun x y _ => x &&& y)
  | .andC f => some (copdVV f, srcsOf [.vec f.a .ident, .vec f.b .ident], fun x y _ => x &&& y)
  | .or f => some (opd f, srcsOf [f.a, f.b], fun x y _ => x ||| y)
  | .orC f => some (copdVV f, srcsOf [.vec f.a .ident, .vec f.b .ident], fun x y _ => x ||| y)
  | .xor f => some (opd f, srcsOf [f.a, f.b], fun x y _ => x ^^^ y)
  | .xorC f => some (copdVV f, srcsOf [.vec f.a .ident, .vec f.b .ident], fun x y _ => x ^^^ y)
  | .andn f => some (opd f, srcsOf [f.a, f.b], fun x y _ => x &&& ~~~y)
  | .andnC f => some (copdVV f, srcsOf [.vec f.a .ident, .vec f.b .ident], fun x y _ => x &&& ~~~y)
  | .shl f => some (opd f, srcsOf [f.a, f.b], fun x y _ => x <<< (y.toNat % 32))
  | .shlC f => some (copdVV f, srcsOf [.vec f.a .ident, .vec f.b .ident], fun x y _ => x <<< (y.toNat % 32))
  | .shr f => some (opd f, srcsOf [f.a, f.b], fun x y _ => x >>> (y.toNat % 32))
  | .shrC f => some (copdVV f, srcsOf [.vec f.a .ident, .vec f.b .ident], fun x y _ => x >>> (y.toNat % 32))
  | .sra f => some (opd f, srcsOf [f.a, f.b], fun x y _ => BitVec.ofInt 32 (x.toInt / 2 ^ (y.toNat % 32)))
  | .sraC f => some (copdVV f, srcsOf [.vec f.a .ident, .vec f.b .ident], fun x y _ => BitVec.ofInt 32 (x.toInt / 2 ^ (y.toNat % 32)))
  | .rot f => some (opd f, srcsOf [f.a, f.b], fun x y _ => x <<< (y.toNat % 32) ||| x >>> (32 - y.toNat % 32))
  | .rotC f => some (copdVV f, srcsOf [.vec f.a .ident, .vec f.b .ident], fun x y _ => x <<< (y.toNat % 32) ||| x >>> (32 - y.toNat % 32))
  | .min f => some (opd f, srcsOf [f.a, f.b], fun x y _ => if x.toInt ≤ y.toInt then x else y)
  | .minC f => some (copdVV f, srcsOf [.vec f.a .ident, .vec f.b .ident], fun x y _ => if x.toInt ≤ y.toInt then x else y)
  | .max f => some (opd f, srcsOf [f.a, f.b], fun x y _ => if x.toInt ≤ y.toInt then y else x)
  | .maxC f => some (copdVV f, srcsOf [.vec f.a .ident, .vec f.b .ident], fun x y _ => if x.toInt ≤ y.toInt then y else x)
  | .minu f => some (opd f, srcsOf [f.a, f.b], fun x y _ => if x.toNat ≤ y.toNat then x else y)
  | .minuC f => some (copdVV f, srcsOf [.vec f.a .ident, .vec f.b .ident], fun x y _ => if x.toNat ≤ y.toNat then x else y)
  | .maxu f => some (opd f, srcsOf [f.a, f.b], fun x y _ => if x.toNat ≤ y.toNat then y else x)
  | .maxuC f => some (copdVV f, srcsOf [.vec f.a .ident, .vec f.b .ident], fun x y _ => if x.toNat ≤ y.toNat then y else x)
  | .abs f => some (opd f, srcsOf [f.a], fun x _ _ => BitVec.ofNat 32 x.toInt.natAbs)
  | .neg f => some (opd f, srcsOf [f.a], fun x _ _ => -x)
  | .mov f => some (opd f, srcsOf [f.a], fun x _ _ => x)
  | .movC f => some (copdV f, srcsOf [.vec f.a .ident], fun x _ _ => x)
  | .popc f => some (opd f, srcsOf [f.a], fun x _ _ => BitVec.ofNat 32 (popcount 32 x.toNat))
  | .popcC f => some (copdV f, srcsOf [.vec f.a .ident], fun x _ _ => BitVec.ofNat 32 (popcount 32 x.toNat))
  | .clz f => some (opd f, srcsOf [f.a], fun x _ _ => BitVec.ofNat 32 (clz 32 x.toNat))
  | .clzC f => some (copdV f, srcsOf [.vec f.a .ident], fun x _ _ => BitVec.ofNat 32 (clz 32 x.toNat))
  | .ctz f => some (opd f, srcsOf [f.a], fun x _ _ => BitVec.ofNat 32 (ctz 32 x.toNat))
  | .ctzC f => some (copdV f, srcsOf [.vec f.a .ident], fun x _ _ => BitVec.ofNat 32 (ctz 32 x.toNat))
  | .div f => some (opd f, srcsOf [f.a, f.b], fun x y _ => if y = 0 then -1 else BitVec.ofInt 32 (x.toInt.tdiv y.toInt))
  | .divC f => some (copdVV f, srcsOf [.vec f.a .ident, .vec f.b .ident], fun x y _ => if y = 0 then -1 else BitVec.ofInt 32 (x.toInt.tdiv y.toInt))
  | .divu f => some (opd f, srcsOf [f.a, f.b], fun x y _ => if y = 0 then -1 else BitVec.ofNat 32 (x.toNat / y.toNat))
  | .divuC f => some (copdVV f, srcsOf [.vec f.a .ident, .vec f.b .ident], fun x y _ => if y = 0 then -1 else BitVec.ofNat 32 (x.toNat / y.toNat))
  | .rem f => some (opd f, srcsOf [f.a, f.b], fun x y _ => if y = 0 then x else BitVec.ofInt 32 (x.toInt.tmod y.toInt))
  | .remC f => some (copdVV f, srcsOf [.vec f.a .ident, .vec f.b .ident], fun x y _ => if y = 0 then x else BitVec.ofInt 32 (x.toInt.tmod y.toInt))
  | .remu f => some (opd f, srcsOf [f.a, f.b], fun x y _ => if y = 0 then x else BitVec.ofNat 32 (x.toNat % y.toNat))
  | .remuC f => some (copdVV f, srcsOf [.vec f.a .ident, .vec f.b .ident], fun x y _ => if y = 0 then x else BitVec.ofNat 32 (x.toNat % y.toNat))
  | _ => none

/-- A lane's result of a float operation on each element: format, RM and FTZ, and three element values (R55, R177). -/
def flane (ty : FTy) (g : FFmt → RM → Bool → Nat → Nat → Nat → Nat) : WLaneFn :=
  fun w x y z => elems ty (fun f a b c => g f w.rm w.ftz a b c) x y z
/-- Vector float instructions, conversions and special functions (R177, R178, R58, R59, R180): operands, vector sources, and
the lane's result. -/
def floatRow : Instr → Option (Opd × List USrc × WLaneFn)
  | .fadd f ty => some (opd f, srcsOf [f.a, f.b], flane ty (fun f rm z x y _ => FFmt.add f rm z x y))
  | .faddC f => some (copdVV f, srcsOf [.vec f.a .ident, .vec f.b .ident], flane .f32 (fun f rm z x y _ => FFmt.add f rm z x y))
  | .fsub f ty => some (opd f, srcsOf [f.a, f.b], flane ty (fun f rm z x y _ => FFmt.sub f rm z x y))
  | .fsubC f => some (copdVV f, srcsOf [.vec f.a .ident, .vec f.b .ident], flane .f32 (fun f rm z x y _ => FFmt.sub f rm z x y))
  | .fmul f ty => some (opd f, srcsOf [f.a, f.b], flane ty (fun f rm z x y _ => FFmt.mul f rm z x y))
  | .fmulC f => some (copdVV f, srcsOf [.vec f.a .ident, .vec f.b .ident], flane .f32 (fun f rm z x y _ => FFmt.mul f rm z x y))
  | .fma f ty => some (opd f, srcsOf [f.a, f.b, f.c], flane ty (fun f rm z x y c => FFmt.fma f rm z x y c))
  | .fms f ty => some (opd f, srcsOf [f.a, f.b, f.c], flane ty (fun f rm z x y c => FFmt.fms f rm z x y c))
  | .fmin f ty => some (opd f, srcsOf [f.a, f.b], flane ty (fun f _ z x y _ => FFmt.minMax f false z x y))
  | .fminC f => some (copdVV f, srcsOf [.vec f.a .ident, .vec f.b .ident], flane .f32 (fun f _ z x y _ => FFmt.minMax f false z x y))
  | .fmax f ty => some (opd f, srcsOf [f.a, f.b], flane ty (fun f _ z x y _ => FFmt.minMax f true z x y))
  | .fmaxC f => some (copdVV f, srcsOf [.vec f.a .ident, .vec f.b .ident], flane .f32 (fun f _ z x y _ => FFmt.minMax f true z x y))
  | .fabs f ty => some (opd f, srcsOf [f.a], flane ty (fun f _ z x _ _ => FFmt.setSign f z false x))
  | .fabsC f => some (copdV f, srcsOf [.vec f.a .ident], flane .f32 (fun f _ z x _ _ => FFmt.setSign f z false x))
  | .fneg f ty => some (opd f, srcsOf [f.a], flane ty (fun f _ z x _ _ => FFmt.setSign f z (!f.neg x) x))
  | .fnegC f => some (copdV f, srcsOf [.vec f.a .ident], flane .f32 (fun f _ z x _ _ => FFmt.setSign f z (!f.neg x) x))
  | .fcopys f ty => some (opd f, srcsOf [f.a, f.b], flane ty (fun f _ z x y _ => FFmt.setSign f z (f.neg y) x))
  | .frnd f ty => some (opd f, srcsOf [f.a], flane ty (fun f rm z x _ _ => FFmt.integral f rm z x))
  | .frndC f => some (copdV f, srcsOf [.vec f.a .ident], flane .f32 (fun f rm z x _ _ => FFmt.integral f rm z x))
  | .ffloor f ty => some (opd f, srcsOf [f.a], flane ty (fun f _ z x _ _ => FFmt.integral f .rdn z x))
  | .ffloorC f => some (copdV f, srcsOf [.vec f.a .ident], flane .f32 (fun f _ z x _ _ => FFmt.integral f .rdn z x))
  | .fceil f ty => some (opd f, srcsOf [f.a], flane ty (fun f _ z x _ _ => FFmt.integral f .rup z x))
  | .fceilC f => some (copdV f, srcsOf [.vec f.a .ident], flane .f32 (fun f _ z x _ _ => FFmt.integral f .rup z x))
  | .ftrunc f ty => some (opd f, srcsOf [f.a], flane ty (fun f _ z x _ _ => FFmt.integral f .rtz z x))
  | .ftruncC f => some (copdV f, srcsOf [.vec f.a .ident], flane .f32 (fun f _ z x _ _ => FFmt.integral f .rtz z x))
  | .exp2 f ty => some (opd f, srcsOf [f.a], flane ty (fun f _ z x _ _ => FFmt.special f .exp2 z x))
  | .exp2C f => some (copdV f, srcsOf [.vec f.a .ident], flane .f32 (fun f _ z x _ _ => FFmt.special f .exp2 z x))
  | .log2 f ty => some (opd f, srcsOf [f.a], flane ty (fun f _ z x _ _ => FFmt.special f .log2 z x))
  | .log2C f => some (copdV f, srcsOf [.vec f.a .ident], flane .f32 (fun f _ z x _ _ => FFmt.special f .log2 z x))
  | .sinpi f ty => some (opd f, srcsOf [f.a], flane ty (fun f _ z x _ _ => FFmt.special f .sinpi z x))
  | .sinpiC f => some (copdV f, srcsOf [.vec f.a .ident], flane .f32 (fun f _ z x _ _ => FFmt.special f .sinpi z x))
  | .cospi f ty => some (opd f, srcsOf [f.a], flane ty (fun f _ z x _ _ => FFmt.special f .cospi z x))
  | .cospiC f => some (copdV f, srcsOf [.vec f.a .ident], flane .f32 (fun f _ z x _ _ => FFmt.special f .cospi z x))
  | .rsq f ty => some (opd f, srcsOf [f.a], flane ty (fun f _ z x _ _ => FFmt.special f .rsq z x))
  | .rcp f ty => some (opd f, srcsOf [f.a], flane ty (fun f _ z x _ _ => FFmt.special f .rcp z x))
  | .sqrt f ty => some (opd f, srcsOf [f.a], flane ty (fun f _ z x _ _ => FFmt.special f .sqrt z x))
  | .tanh f ty => some (opd f, srcsOf [f.a], flane ty (fun f _ z x _ _ => FFmt.special f .tanh z x))
  | .sigm f ty => some (opd f, srcsOf [f.a], flane ty (fun f _ z x _ _ => FFmt.special f .sigm z x))
  | .fclass f => some (opd f, srcsOf [f.a], fun _ x _ _ => BitVec.ofNat 32 (fclass x.toNat))
  | .fclassC f => some (copdV f, srcsOf [.vec f.a .ident], fun _ x _ _ => BitVec.ofNat 32 (fclass x.toNat))
  | .cvt f dst src rnd sat =>
    some (opd f, srcsOf (if dst.isPair && src == .f32 then [f.a, f.b] else [f.a]), fun w x y _ => cvtLane dst src rnd sat w x y)
  | .bfpu f m => some (opd f, srcsOf [f.a], fun w x _ _ => bfpuLane (mcodeM m) w x)
  | _ => none

/-- Vector compares (R173, R179): operands, and the relation of a lane's values. -/
def cmpRow : Instr → Option (Opd × (Warp → Word → Word → Bool))
  | .cmpeq f => some (opd f, fun _ x y => decide (x = y))
  | .cmpeqC f => some (copdVV f, fun _ x y => decide (x = y))
  | .cmpne f => some (opd f, fun _ x y => decide (x ≠ y))
  | .cmpneC f => some (copdVV f, fun _ x y => decide (x ≠ y))
  | .cmplt f => some (opd f, fun _ x y => decide (x.toInt < y.toInt))
  | .cmpltC f => some (copdVV f, fun _ x y => decide (x.toInt < y.toInt))
  | .cmpltu f => some (opd f, fun _ x y => decide (x.toNat < y.toNat))
  | .cmpltuC f => some (copdVV f, fun _ x y => decide (x.toNat < y.toNat))
  | .cmple f => some (opd f, fun _ x y => decide (x.toInt ≤ y.toInt))
  | .cmpleu f => some (opd f, fun _ x y => decide (x.toNat ≤ y.toNat))
  | .fcmpeq f => some (opd f, fun w x y => F32.eqB w.ftz x.toNat y.toNat)
  | .fcmpeqC f => some (copdVV f, fun w x y => F32.eqB w.ftz x.toNat y.toNat)
  | .fcmpne f => some (opd f, fun w x y => !F32.eqB w.ftz x.toNat y.toNat)
  | .fcmpneC f => some (copdVV f, fun w x y => !F32.eqB w.ftz x.toNat y.toNat)
  | .fcmplt f => some (opd f, fun w x y => F32.ltB w.ftz x.toNat y.toNat)
  | .fcmpltC f => some (copdVV f, fun w x y => F32.ltB w.ftz x.toNat y.toNat)
  | .fcmple f => some (opd f, fun w x y => F32.leB w.ftz x.toNat y.toNat)
  | .fcmpleC f => some (copdVV f, fun w x y => F32.leB w.ftz x.toNat y.toNat)
  | .fcmpun f => some (opd f, fun _ x y => F32.isNan x.toNat || F32.isNan y.toNat)
  | _ => none

/-- Vector instructions of 64-bit lanes (R176): operands, vector sources, and the result of a lane's pair x and of y, which
is a pair of B, or the lane's 32-bit count. -/
def pairRow : Instr → Option (Opd × List USrc × Bool × (DWord → DWord → DWord))
  | .add64 f => some (opd f, [(0, f.a, true), (1, f.b, true)], true, fun x y => x + y)
  | .add64C f => some (copdVV f, [(0, .vec f.a .ident, true), (1, .vec f.b .ident, true)], true, fun x y => x + y)
  | .sub64 f => some (opd f, [(0, f.a, true), (1, f.b, true)], true, fun x y => x - y)
  | .sub64C f => some (copdVV f, [(0, .vec f.a .ident, true), (1, .vec f.b .ident, true)], true, fun x y => x - y)
  | .shl64 f => some (opd f, [(0, f.a, true), (1, f.b, false)], false, fun x y => x <<< (y.toNat % 64))
  | .shl64C f => some (copdVV f, [(0, .vec f.a .ident, true), (1, .vec f.b .ident, false)], false, fun x y => x <<< (y.toNat % 64))
  | .shr64 f => some (opd f, [(0, f.a, true), (1, f.b, false)], false, fun x y => x >>> (y.toNat % 64))
  | .shr64C f => some (copdVV f, [(0, .vec f.a .ident, true), (1, .vec f.b .ident, false)], false, fun x y => x >>> (y.toNat % 64))
  | _ => none

/-- ADD, SUB and MUL of 32-bit lanes, whose results keep their sources' shapes (R162). -/
inductive ShapeOp where | add | sub | mul
deriving DecidableEq, Repr
def shapeRow : Instr → Option (Opd × ShapeOp)
  | .add f => some (opd f, .add)
  | .addC f => some (copdVV f, .add)
  | .sub f => some (opd f, .sub)
  | .subC f => some (copdVV f, .sub)
  | .mul f => some (opd f, .mul)
  | .mulC f => some (copdVV f, .mul)
  | _ => none
/-- The tag of a vector result (R162 rows 2 to 9): GEN where a lane is inactive, else UNI under U, else `full`. -/
def State.tagAfter (s : State) (u : Bool) (full : Tag) : Tag := if s.warp.exec = s.wm then (if u then .uni else full) else .gen
/-- UNI where every source counts as UNI, else GEN (R162 rows 8 and 9). -/
def uniTag (w : Warp) (srcs : List USrc) : Tag := if srcs.all fun x => (shapeOf w x.2.1).isUni then .uni else .gen

/-! Cross-lane results. -/

/-- The operation of a scan over the lanes' values in order (R187): none of no lanes. -/
def scanFold (op : ScanOp) (w : Warp) : List Word → Option Word
  | [] => none
  | x :: r => some (r.foldl (scanFn op w) x)
/-- The active lanes below `l`. -/
def Warp.lanesBelow (w : Warp) (l : Nat) : List Nat := (List.range l).filter w.active
/-- The sort items of the active lanes (R188, R189): the key's rank, the key and the value, by lane. -/
def sortInput (key : KeyTy) (o : Opd) (s : State) : List Item :=
  (s.warp.lanes s.width).map fun l =>
    (keyRank key (lane32 s.warp s.width o.a l), lane32 s.warp s.width o.a l, lane32 s.warp s.width o.b l)
/-- `out` is `inp` in the order of R189: sorted by rank, items of equal rank in their order of `inp`. -/
def StablySorted (desc : Bool) (inp out : List Item) : Prop :=
  out.Pairwise (fun x y => if desc then y.1 ≤ x.1 else x.1 ≤ y.1)
    ∧ ∀ r, out.filter (fun x => x.1 = r) = inp.filter (fun x => x.1 = r)

/-! Instructions that change more than registers. -/

/-- The executing warp has completed its instruction with the registers of `w'`, and every other warp is as before. -/
def Retires (o : Opd) (w' : Warp) (ends : Bool) (s t : State) : Prop :=
  t.warp = completed o s.warp w' ends ∧ ∀ k, k ≠ s.cur → t.warpAt k = s.warpAt k
/-- Every core but one is as before. -/
def State.otherCores (c : Nat) (s t : State) : Prop := ∀ d, d ≠ c → t.coreAt d = s.coreAt d
/-- Every workgroup but one is as before. -/
def State.otherWgs (n : Nat) (s t : State) : Prop := ∀ m, m ≠ n → t.wgAt m = s.wgAt m
/-- Every context but one is as before. -/
def State.otherCtxs (c : Nat) (s t : State) : Prop := ∀ d, d ≠ c → t.ctxAt d = s.ctxAt d

/-- The faulting lanes of an exception (R38, R108): those of `lanes` that `bad` names, and exec under U. -/
def maskOfFault (w : Warp) (u : Bool) (lanes : List Nat) (bad : Nat → Bool) (m : DWord) : Prop :=
  if u then m = w.exec else ∀ j, j < 64 → m.getLsbD j = (decide (j ∈ lanes) && bad j)

/-! Global memory (R227 to R237). -/

/-- An access by the executing warp passes the checks of R38 and reaches this memory key; `io` says whether an I/O page may
be accessed. -/
def State.reaches (s : State) (a : DWord) (n : Nat) (k : Acc) (io : Bool) (key : Nat) : Bool :=
  match s.xlateW a n k with
  | .ok k' lf => k' == key && (io || !lf.io)
  | _ => false
/-- The cause an access ends in, if it fails a check (R38). -/
def State.accessCause (s : State) (a : DWord) (n : Nat) (k : Acc) (io : Bool) : Option Nat :=
  match s.xlateW a n k with
  | .bad c => some c
  | .ok _ lf => if lf.io && !io then some 0x09 else none
  | .wait => none
/-- The state in which an access reads and writes: the reductions of the warp that a release or the same-bytes rule puts
before it have performed (R215, R217). -/
def State.ordered (s : State) (so : Sync) (spans : List (Nat × Nat)) : State := (s.order so.order).flushOver s.cur spans
/-- LD, LDU and LDF (R231, R233): the fields and modifiers, whether an I/O page may be read, whether the stint ends, and
whether lane 0 answers for every lane. -/
def loadRow : Instr → Option (Ops × GAddr × Width × Sync × Bool × Bool × Bool)
  | .ld f g w o => some (f, g, w, o, true, f.s, f.u)
  | .ldu f g w o => some (f, g, w, o, true, f.s, true)
  | .ldf f g w o => some (f, g, w, o, false, true, f.u)
  | _ => none
/-- What a per-lane access of global memory asks for (R38, R231, R233, R235, R236): its fields, its lanes' addresses, its
bytes, what it does, whether an I/O page may be accessed, whether lane 0 answers for every lane, and its vector sources. -/
def accessRow (w : Warp) (width : Nat) : Instr → Option (Ops × (Nat → DWord) × Nat × Acc × Bool × Bool × List USrc)
  | .ld f g wd _ => some (f, globalAddr w width g (opd f) true, widthBytes wd, .read, true, f.u, [(0, f.a, true), (1, f.b, false)])
  | .ldu f g wd _ => some (f, globalAddr w width g (opd f) true, widthBytes wd, .read, true, true, [(0, f.a, true), (1, f.b, false)])
  | .ldf f g wd _ => some (f, globalAddr w width g (opd f) true, widthBytes wd, .read, false, f.u, [(0, f.a, true), (1, f.b, false)])
  | .st f g wd _ => some (f, globalAddr w width g (opd f) true, widthBytes wd, .write, true, f.u,
      [(0, f.a, true), (1, f.b, false), (3, .vec f.d .ident, wd = .w64)])
  | .atom f g op w64 _ => some (f, globalAddr w width g (opd f) false, if w64 then 8 else 4, .rw, false, f.u,
      [(0, f.a, true), (1, f.b, false), (2, f.c, w64)] ++ if op = .cas then [(3, .vec f.d .ident, w64)] else [])
  | .red f g _ w64 _ => some (f, globalAddr w width g (opd f) false, if w64 then 8 else 4, .rw, false, f.u,
      [(0, f.a, true), (1, f.b, false), (2, f.c, w64)])
  | _ => none
/-- The destination registers of a load of this width. -/
def loadDests (wd : Width) (d : Reg) : List Reg := if wd = .w64 then [d, d + 1] else [d]
/-- A load's results: each active lane's value extended, a 64-bit one in a pair (R227, R231). -/
def Warp.loaded (w w' : Warp) (width : Nat) (u : Bool) (wd : Width) (d : Reg) (val : Nat → Nat) : Prop :=
  if wd = .w64 then
    ∀ l, l < width → l < 64 → (readV w' (d + 1)).lane l ++ (readV w' d).lane l =
      if w.active l then BitVec.ofNat 64 (val (bodyLane u l)) else (readV w (d + 1)).lane l ++ (readV w d).lane l
  else w.givesLanes w' width u d fun l => extend 32 wd (val l)
/-- The value that lane `l` stores: of D, a pair for a 64-bit store (R231). -/
def storeData (w : Warp) (width : Nat) (wd : Width) (d : Reg) (l : Nat) : DWord :=
  if wd = .w64 then lane64 w width (.vec d .ident) l else (lane32 w width (.vec d .ident) l).setWidth 64
/-- Memory after stores of `n` bytes by lanes: each byte is that of the highest-numbered lane that covers it, and every other
byte is as in `s`; a poisoned line that the lanes together replace wholly is no longer poisoned (R231, R232). -/
def State.stored (s t : State) (lanes : List Nat) (key : Nat → Nat) (n : Nat) (data : Nat → DWord) : Prop :=
  (∀ a, (∀ l ∈ lanes, ¬(key l ≤ a ∧ a < key l + n)) → t.readMem a 1 = s.readMem a 1)
  ∧ (∀ l ∈ lanes, ∀ i, i < n → (∀ j ∈ lanes, l < j → ¬(key j ≤ key l + i ∧ key l + i < key j + n)) →
      t.readMem (key l + i) 1 = [BitVec.ofNat 8 ((data l).toNat / 256 ^ i)])
  ∧ ∀ ln, ln ∈ t.linePoison ↔
      ln ∈ s.linePoison ∧ ¬∀ i, i < 64 → ∃ l ∈ lanes, key l ≤ 64 * ln + i ∧ 64 * ln + i < key l + n
/-- A word of memory after atomics one after another, each with its data and its compare value (R111, R235). -/
def atomWord (op : AOp) (w64 : Bool) (old : Nat) (xs : List (DWord × DWord)) : Nat :=
  if w64 then (xs.foldl (fun v x => aopNew op v x.1 x.2) (BitVec.ofNat 64 old)).toNat
  else (xs.foldl (fun v x => aopNew op v (x.1.setWidth 32) (x.2.setWidth 32)) (BitVec.ofNat 32 old)).toNat
/-- The words that lanes name are the same or have no byte in common, as words translated from aligned addresses do. -/
def wordsApart (lanes : List Nat) (key : Nat → Nat) (n : Nat) : Prop :=
  ∀ l ∈ lanes, ∀ j ∈ lanes, key l = key j ∨ key l + n ≤ key j ∨ key j + n ≤ key l

/-! Scratchpad (R97, R108 to R116). -/

/-- The bytes of a core's scratchpad after stores by lanes, as for memory; the poison and the latent errors of words that
the lanes together replace wholly are gone (R97, R110). -/
def State.padStored (s t : State) (c : Nat) (lanes : List Nat) (at_ : Nat → Nat) (n : Nat) (data : Nat → DWord) : Prop :=
  let whole := fun w => ∀ i, i < 16 → ∃ l ∈ lanes, at_ l ≤ 16 * w + i ∧ 16 * w + i < at_ l + n
  (∀ p, (∀ l ∈ lanes, ¬(at_ l ≤ p ∧ p < at_ l + n)) → t.padRead c p 1 = s.padRead c p 1)
  ∧ (∀ l ∈ lanes, ∀ i, i < n → (∀ j ∈ lanes, l < j → ¬(at_ j ≤ at_ l + i ∧ at_ l + i < at_ j + n)) →
      t.padRead c (at_ l + i) 1 = [BitVec.ofNat 8 ((data l).toNat / 256 ^ i)])
  ∧ t.coreAt c = { s.coreAt c with pad := (t.coreAt c).pad, poison := (t.coreAt c).poison, latent := (t.coreAt c).latent }
  ∧ (∀ w, w ∈ (t.coreAt c).poison ↔ w ∈ (s.coreAt c).poison ∧ ¬whole w)
  ∧ ∀ e, e ∈ (t.coreAt c).latent ↔ e ∈ (s.coreAt c).latent ∧ ¬whole e.1
/-- ATOML and the bank commands that modify one word a lane (R111, R113): operands, vector sources, the lane's address, the
order, whether the old value is returned, and lane `l`'s new word of its old one. -/
def modifyRow (w : Warp) (width : Nat) : Instr → Option (Opd × List USrc × (Nat → DWord) × Order × Bool × (Nat → Word → Word))
  | .atoml f op o => some (opd f, [(0, f.a, false), (1, f.b, false)] ++ (if op = .cas then [(3, .vec f.d .ident, false)] else []),
      localAddr w width (opd f) true, o, true,
      fun l v => aopNew op v (lane32 w width f.b l) (lane32 w width (.vec f.d .ident) l))
  | .bnkAdd f row => some (bnk f row fun v x _ => v + x)
  | .bnkMax f row => some (bnk f row fun v x _ => if v.toInt < x.toInt then x else v)
  | .bnkMin f row => some (bnk f row fun v x _ => if x.toInt < v.toInt then x else v)
  | .bnkFadd f row bf => some (bnk f row (ochreFadd bf))
  | .bnkFmax f row bf => some (bnk f row (ochreFmax bf))
  | .bnkFmin f row bf => some (bnk f row (ochreFmin bf))
  | .bnkFmul f row bf => some (bnk f row (ochreFmul bf))
  | .bnkFma f row bf => some (bnk2 f row false (ochreFma bf))
  | .bnkCas f row => some (bnk2 f row true fun v x y => if v = x then y else v)
  | .bnkXchg f row => some (opd f, [(0, f.a, false), (1, f.b, false)], bnkAddr w width row true (opd f), .relaxed, true,
      fun l _ => lane32 w width f.b l)
  | .bnkFill f row => some (bnk f row fun _ x _ => x)
  | _ => none
where
  bnk (f : Ops) (row : Bool) (g : Word → Word → Word → Word) :=
    (opd f, [(0, f.a, false), (1, f.b, false)], bnkAddr w width row true (opd f), .relaxed, false,
      fun l v => g v (lane32 w width f.b l) (lane32 w width f.c l))
  bnk2 (f : Ops) (row ret : Bool) (g : Word → Word → Word → Word) :=
    (opd f, [(0, f.a, false), (1, f.b, false), (2, f.c, false)], bnkAddr w width row false (opd f), .relaxed, ret,
      fun l v => g v (lane32 w width f.b l) (lane32 w width f.c l))
/-- A per-lane access of the scratchpad (R97, R108): operands, vector sources, the lane's address, its bytes, and whether poison
traps. -/
def localRow (w : Warp) (width : Nat) (i : Instr) : Option (Opd × List USrc × (Nat → DWord) × Nat × Bool) :=
  ((modifyRow w width i).map fun r => (r.1, r.2.1, r.2.2.1, 4, r.2.2.2.2.1)) <|>
  match i with
  | .ldl f wd => some (opd f, [(0, f.a, false)], localAddr w width (opd f) true, widthBytes wd, true)
  | .stl f wd => some (opd f, [(0, f.a, false), (1, f.b, wd = .w64)], localAddr w width (opd f) true, widthBytes wd, false)
  | .bnkXms f row => some (opd f, [(0, f.a, false), (1, f.b, false)],
      if row then fun _ => locVal w width f.a 0 else localAddr w width (opd f) true, 8, false)
  | _ => none
/-- A word after the lanes given, one after another. -/
def modifyWord (new : Nat → Word → Word) (lanes : List Nat) (old : Word) : Word := lanes.foldl (fun v l => new l v) old
/-- The 32-bit word at a physical offset of a core's scratchpad. -/
def State.padWord (s : State) (c p : Nat) : Word := BitVec.ofNat 32 (leNat (s.padRead c p 4))
/-- Only the scratchpad bytes of one core differ. -/
def State.onlyPad (c : Nat) (s t : State) : Prop :=
  s.otherCores c t ∧ t.coreAt c = { s.coreAt c with pad := (t.coreAt c).pad }

/-- Local offsets of a BULK's elements in ascending linear index (R102). -/
def Shape3.elems (d : Shape3) : List Nat :=
  (List.range d.n2).flatMap fun i2 => (List.range d.n1).flatMap fun i1 => (List.range d.n0).map fun i0 => d.at i0 i1 i2
/-- TAGL, TAGI, TAGD (R117): fields, whether B is a source, and one lane. -/
def tagRow : Instr → Option (Ops × Bool × (Nat → Word → Word → List TagEntry → Word × List TagEntry))
  | .tagl f => some (f, false, taglLane)
  | .tagi f => some (f, true, tagiLane)
  | .tagd f => some (f, false, tagdLane)
  | _ => none
/-- The included inputs of a block of BFPK: the active lanes from `first` on (R59). -/
def blockInputs (w : Warp) (width : Nat) (a : Src) (first n : Nat) : List (Option Word) :=
  (List.range n).map fun j => if w.active (first + j) then some (lane32 w width a (first + j)) else none
/-- The second register of a pair source; an immediate stands for both (R59). -/
def upperSrc : Src → Src | .vec r p => .vec (r + 1) p | f => f

/-- The per-lane set instructions (R141, R142): operands, the operation, and whether the result is a pair. -/
def setLaneRow : Instr → Option (Opd × LaneOp × Bool)
  | .setIns f => some (opd f, .ins, false)
  | .setInsC f => some (copdSV f, .ins, false)
  | .setDel f => some (opd f, .del, false)
  | .setDelC f => some (copdSV f, .del, false)
  | .setTest f => some (opd f, .test, false)
  | .setTestC f => some (copdSV f, .test, false)
  | .setCard f w64 => some (opd f, .card, w64)
  | .setCardC f => some (copdSV f, .card, false)
  | .setRank f => some (opd f, .rank, false)
  | .setRankC f => some (copdSV f, .rank, false)
  | .setSel f => some (opd f, .sel, false)
  | .setSelC f => some (copdSV f, .sel, false)
  | .setNext f => some (opd f, .next, false)
  | .setNextC f => some (copdSV f, .next, false)
  | _ => none
/-- The instructions that do nothing with exec empty and whose stint S alone ends (R82, R97, R115, R116, R141, R143, R150, R165,
R168, R184, R203, R231): operands. -/
def idleRow (i : Instr) : Option Opd :=
  ((intRow i).map fun r => r.1) <|> ((floatRow i).map fun r => r.1) <|> ((cmpRow i).map fun r => r.1)
  <|> ((pairRow i).map fun r => r.1) <|> ((setLaneRow i).map fun r => r.1)
  <|> match i with
    | .vidxC f | .acczC f => some (copdN f)
    | .vaffC f => some (copdSS f)
    | .mmaC f | .mmaSpC f => some (copdVV f)
    | .sel f | .vidx f | .vaff f | .vperm f | .vscan f _ _ | .vsort f _ _ | .vsortkv f _ _ | .vargmax f _ | .bfpk f _
    | .act f _ _ | .actld f _ | .ld f .. | .st f .. | .ldu f .. | .atom f .. | .red f .. | .ldl f _ | .stl f _ | .atoml f ..
    | .bnkAdd f _ | .bnkMax f _ | .bnkMin f _ | .bnkFadd f .. | .bnkFmax f .. | .bnkFmin f .. | .bnkFmul f .. | .bnkFma f ..
    | .bnkXms f _ | .bnkCas f _ | .bnkXchg f _ | .bnkFill f _ | .bulk f .. | .bcpy f .. | .tagl f | .tagi f | .tagd f
    | .cpy f .. | .cpyt f .. | .gath f _ | .scat f _ | .scatRed f _ | .qfence f .. | .arvInit f | .arvAdd f _ | .arvExp f
    | .decSub f | .decStat f | .tdset f .. | .tdget f | .tfree f | .mma f | .mmaSp f | .accz f | .accl f | .accr f _ | .accd f _
    | .setUnion f | .setInter f | .setDiff f | .setCopy f | .setXcard f _ | .setImport f _ | .setExport f | .setNew f _
    | .setFree f | .setClear f | .setPin f _ | .setRep f | .setCost f | .setEst f _ _ => some (opd f)
    | _ => none
/-- The vector sources that U makes uniform, those read through D among them, with index 3 (R163): operands and sources. -/
def uniformRow (w : Warp) (width : Nat) (i : Instr) : Option (Opd × List USrc) :=
  ((intRow i).map fun r => (r.1, r.2.1)) <|> ((floatRow i).map fun r => (r.1, r.2.1))
  <|> ((cmpRow i).map fun r => (r.1, srcsOf [r.1.a, r.1.b])) <|> ((pairRow i).map fun r => (r.1, r.2.1))
  <|> ((accessRow w width i).map fun r => ({ opd r.1 with u := r.2.2.2.2.2.1 }, r.2.2.2.2.2.2))
  <|> ((localRow w width i).map fun r => (r.1, r.2.1))
  <|> ((tagRow i).map fun r => (opd r.1, (0, r.1.a, false) :: if r.2.1 then [(1, r.1.b, false)] else []))
  <|> ((setLaneRow i).map fun r => (r.1, if r.2.1 = .card then [] else [(1, r.1.b, false)]))
  <|> match i with
    | .sel f => some (opd f, srcsOf [f.a, f.b, f.c])
    | .act f _ _ => some (opd f, srcsOf [f.a])
    | .bfpk f _ => some (opd f, [(0, f.a, width = 16)])
    | .bulk f .. => some (opd f, [(0, f.a, false), (1, f.b, false)])
    | .bcpy f .. => some (opd f, [(0, f.a, false), (1, f.b, false), (2, f.c, false)])
    | _ => none

/-! Copy queues (R60 to R75, R84 to R91). -/

/-- A command has entered queue `q` of a core, behind the others; nothing else of any core differs. -/
def State.enqueued (s t : State) (core q : Nat) (c : Cmd) : Prop :=
  s.otherCores core t ∧ t.coreAt core = { s.coreAt core with queues := (t.coreAt core).queues }
    ∧ t.queue core q = s.queue core q ++ [c] ∧ ∀ p, p ≠ q → t.queue core p = s.queue core p
/-- The queue's head has become `c`, or with none has left; nothing else of the queues differs. -/
def State.headed (s t : State) (core q : Nat) (c : Option Cmd) : Prop :=
  t.queue core q = c.toList ++ (s.queue core q).tail ∧ ∀ p, p ≠ q → t.queue core p = s.queue core p
/-- The arrival object at physical offset `obj` of a core has taken an arrival of `n` with status flags `f` (R68, R69); no
other byte of that scratchpad differs from `s`. -/
def State.arrived (s t : State) (core obj n f : Nat) : Prop :=
  leNat (t.padRead core obj 8) = arriveWord (leNat (s.padRead core obj 8)) (leNat (s.padRead core (obj + 8) 8)) n f % 2 ^ 64
    ∧ ∀ p, ¬(obj ≤ p ∧ p < obj + 8) → t.padRead core p 1 = s.padRead core p 1
/-- The number under which a new command is known, whose it is and what it holds at issue. -/
def State.newCmd (s : State) (kind : CmdKind) (x : List Xlat) (obj count : Nat) : Cmd :=
  { id := s.nextCmd, wg := wgOf s.cur, warp := warpNo s.cur, kind := kind, xlat := x, obj := s.wg.base + obj, count := count }
/-- A head that an engine may take. -/
def Cmd.waiting (c : Cmd) : Bool :=
  c.stage = .queued && c.engine.isNone && match c.kind with | .qfence .. => false | _ => true
/-- GATH, SCAT and SCAT.RED: fields, queue and kind. -/
def indexRow : Instr → Option (Ops × BitVec 3 × Nat)
  | .gath f q => some (f, q, 0)
  | .scat f q => some (f, q, 1)
  | .scatRed f q => some (f, q, 2)
  | _ => none

/-- Address `a` lies in the global range of `n` bytes at `va`, which goes on at address 0 past 2^64 − 1 (log 16). -/
def globIn (va : DWord) (n a : Nat) : Prop := a < 2 ^ 64 ∧ (a + 2 ^ 64 - va.toNat) % 2 ^ 64 < n
/-- Bytes of memory as a command's translations name them. -/
def State.xbytes (s : State) (x : List Xlat) (va n : Nat) : List Byte :=
  (List.range n).map fun i => Tab.get 0 (xkey x (va + i)) s.mem
/-- None of them lies in a peer page or a poisoned line. -/
def State.clean (s : State) (x : List Xlat) (va n : Nat) : Prop :=
  ∀ i, i < n → isPeer (xkey x (va + i)) = false ∧ s.linePoisoned (xkey x (va + i)) = false
/-- No two of them are one byte of memory. -/
def oneToOne (x : List Xlat) (va n : Nat) : Prop :=
  ∀ i j, i < n → j < n → xkey x (va + i) = xkey x (va + j) → i = j
/-- A byte that a CPY reads: 0 of a poisoned line or word, and free, none here, of a peer page (R87, R97). -/
def State.srcByte (s : State) (x : List Xlat) (g : Wg) (i : Nat) : Side → Option Byte
  | .loc off => some (if s.locPoisoned g (off + i) 1 then 0 else Tab.get 0 (g.base + off + i) (s.coreAt g.core).pad)
  | .glob va =>
    let k := xkey x (va.toNat + i)
    if isPeer k then none else some (if s.linePoisoned k then 0 else Tab.get 0 k s.mem)
/-- It is poisoned. -/
def State.srcBad (s : State) (x : List Xlat) (g : Wg) (i : Nat) : Side → Bool
  | .loc off => s.locPoisoned g (off + i) 1
  | .glob va => let k := xkey x (va.toNat + i); !isPeer k && s.linePoisoned k
/-- The row of A that the chain of row `i` names, if it stays in its extents, from the elements of C and B (R73). -/
def IdxDesc.row (d : IdxDesc) (c b : Nat → Nat) (i : Nat) : Option Nat :=
  if d.lev = 2 ∧ d.bext ≤ c i then none
  else
    let k := if d.lev = 2 then b (c i) else c i
    if k < d.aext then some k else none
/-- The elements of C and of B as the command reads them. -/
def State.elemC (s : State) (x : List Xlat) (g : Wg) (d : IdxDesc) (i : Nat) : Nat :=
  if d.cLocal then s.loc32 g (d.cbase.toNat + 4 * i) else leNat (s.xbytes x (d.cbase.toNat + 4 * i) 4)
def State.elemB (s : State) (x : List Xlat) (d : IdxDesc) (j : Nat) : Nat := leNat (s.xbytes x (d.bbase.toNat + 4 * j) 4)
/-- C and B hold no poison and lie in no peer page, and the core has no latent error. -/
def State.cleanIndex (s : State) (x : List Xlat) (g : Wg) (d : IdxDesc) : Prop :=
  (s.coreAt g.core).latent = []
    ∧ (if d.cLocal then s.locPoisoned g d.cbase.toNat (4 * d.n) = false else s.clean x d.cbase.toNat (4 * d.n))
    ∧ (d.lev = 2 → s.clean x d.bbase.toNat (4 * d.bext))
/-- An index command that has performed: BOUND where some row's chain leaves its extents (R73). -/
def Cmd.indexed (c : Cmd) (d : IdxDesc) (row : Nat → Option Nat) (peer : Bool) : Cmd :=
  { c with stage := .performed, flags := if (List.range d.n).any fun i => (row i).isNone then 2 else 0, peer := peer }

/-! The matrix engine (R192 to R211). -/

/-- MMA and MMA.SP in every form (R207): operands and the descriptors of A and B. -/
def mmaRow : Instr → Option (Opd × Nat × Nat)
  | .mma f => some (opd f, numOf f.a, numOf f.b)
  | .mmaC f => some (copdVV f, f.a.toNat, f.b.toNat)
  | .mmaSp f => some (opd f, numOf f.a, numOf f.b)
  | .mmaSpC f => some (copdVV f, f.a.toNat, f.b.toNat)
  | _ => none
/-- MMA, MMA.SP and ACCZ in every form (R207, R208): operands, the operation that enters the queue, and the conditions on the
tiles. -/
def matrixRow (s : State) : Instr → Option (Opd × MatKind × Bool)
  | .mma f => some (opd f, mma false (numOf f.a) (numOf f.b))
  | .mmaC f => some (copdVV f, mma false f.a.toNat f.b.toNat)
  | .mmaSp f => some (opd f, mma true (numOf f.a) (numOf f.b))
  | .mmaSpC f => some (copdVV f, mma true f.a.toNat f.b.toNat)
  | .accz f => some (opd f, .accz s.warp.exec, true)
  | .acczC f => some (copdN f, .accz s.warp.exec, true)
  | _ => none
where
  mma (sp : Bool) (a b : Nat) : MatKind × Bool :=
    (.mma sp a b (s.wg.tile a) (s.wg.tile b) s.warp.exec s.warp.ftz,
     (mmaFault a b (s.wg.tile a) (s.wg.tile b)).isNone && !(s.wg.tile a).busy && !(s.wg.tile b).busy)
/-- The instructions that enter the matrix queue (R196, R208 to R211). -/
def entersMatrix : Instr → Bool
  | .mma _ | .mmaC _ | .mmaSp _ | .mmaSpC _ | .accz _ | .acczC _ | .accl _ | .accr .. | .accd .. => true
  | _ => false
/-- The warp waits for the operation of an ACCR (R210). -/
def Warp.awaitsAccr (w : Warp) : Prop := ∃ id got, w.stall = some (.accr id got)
/-- An operation has entered the core's matrix queue, behind the others; nothing else of any core differs. -/
def State.matrixQueued (s t : State) (core acc id wg warp : Nat) (kind : MatKind) : Prop :=
  s.otherCores core t
    ∧ t.coreAt core = { s.coreAt core with matq := (s.coreAt core).matq ++ [⟨id, wg, warp, acc, kind, false⟩] }
/-- A row of an accumulator tile whose owner lane is in a mask (R193). -/
def ownedRow (width : Nat) (rows : DWord) (i : Nat) : Prop := i < 64 ∧ rows.getLsbD (i % width) = true

/-! Sets (R119 to R153). -/

/-- Entry `i` of a context's set handle table has become `e`, in the table that the slices read, in its sixteen bytes at
SHT, and in the cost counters of a live set's header, unless the two share bytes; the stamps of set versions have gone on by
`n`. No other entry and no other byte of memory differs from `s` (R120, R131, R133, R138). -/
def State.setPut (s t : State) (ctx i : Nat) (e : SetEntry) (n : Nat) : Prop :=
  let tab := (s.ctxAt ctx).sht + 16 * i
  let hdr := (s.ctxAt ctx).arena + 64 * e.hdr.toNat + 64
  s.otherCtxs ctx t
    ∧ t.ctxAt ctx = { s.ctxAt ctx with sets := (t.ctxAt ctx).sets, setStamp := (s.ctxAt ctx).setStamp + n }
    ∧ (t.ctxAt ctx).set i = e ∧ (∀ j, j ≠ i → (t.ctxAt ctx).set j = (s.ctxAt ctx).set j)
    ∧ ((e.v → tab + 16 ≤ hdr ∨ hdr + 168 ≤ tab) → t.readMem tab 16 = e.bytes)
    ∧ (e.v → t.readMem hdr 168 = e.costBytes)
    ∧ ∀ a, ¬(tab ≤ a ∧ a < tab + 16) → ¬(e.v ∧ hdr ≤ a ∧ a < hdr + 168) → t.readMem a 1 = s.readMem a 1
/-- A handle that names a set which an instruction may use at once: it is not stale, its set is not lost or poisoned, no
command holds it back, and its home slice is not frozen (R121, R130, R302, R303). -/
def State.usable (s : State) (h : Word) : Bool :=
  !s.ctx.stale h && !(s.ctx.set (handleIndex h)).lost && !s.setBusy (handleIndex h)
    && !s.sliceFrozen (s.ctx.set (handleIndex h)).home && !s.poisonedSet s.wg.ctx (handleIndex h)
/-- The keys of an instruction's lanes. -/
def laneKeys (s : State) (o : Opd) : List (Nat × Nat) :=
  (bodyLanes s.warp s.width o.u).map fun l => (l, (lane32 s.warp s.width o.b l).toNat)
/-- Numbers strictly rise. -/
def rising (l : List Nat) : Prop := l.Pairwise (· < ·)
/-- The value of a DIRECT or PANED set in good order: one pane, number 0, of a small universe; else panes of rising numbers;
each with rising positions below 4,096 (R123, R124). -/
def SetVal.good (v : SetVal) : Prop :=
  (∀ x ∈ v.panes, rising x.keys ∧ ∀ k ∈ x.keys, k < 4096)
    ∧ match v.layout with
      | .direct => ∃ x, v.panes = [x] ∧ x.no = 0
      | .paned => rising (v.panes.map Pane.no)
      | .hashed => False
/-- A bulk set instruction (R140, R151 to R153) as R150 sees it: the command's kind, its arrival object, a local result, its
handles with A first, whether its array is illegal, its array's range, its reservation, and its destination, A and B. -/
structure BulkForm where
  kind : SetCmdKind
  obj : Nat
  loc : Option Nat := none
  hs : List Word
  bad : Bool := false
  range : List GRange := []
  reserve : Nat := 0
  d : Word
  a : Word
  b : Word
/-- The form of each bulk set instruction, from the executing warp's registers. -/
def setBulkRow (s : State) : Instr → Option (Ops × BulkForm)
  | .setUnion f => some (f, {
      kind := .union, obj := ob f, hs := [A f, B f, D f], d := D f, a := A f, b := B f,
      reserve := bulkReserve (v (A f)).u ((v (A f)).card + (v (B f)).card)
        (if (v (A f)).u ≤ 4096 then 1 else min ((v (A f)).panesBound + (v (B f)).panesBound) (maxPanes (v (A f)).u)) })
  | .setInter f => some (f, {
      kind := .inter, obj := ob f, hs := [A f, B f, D f], d := D f, a := A f, b := B f,
      reserve := bulkReserve (v (A f)).u (min (v (A f)).card (v (B f)).card) (min (v (A f)).panesBound (v (B f)).panesBound) })
  | .setDiff f => some (f, {
      kind := .diff, obj := ob f, hs := [A f, B f, D f], d := D f, a := A f, b := B f,
      reserve := bulkReserve (v (A f)).u (v (A f)).card (v (A f)).panesBound })
  | .setCopy f => some (f, {
      kind := .copy, obj := ob f, hs := [A f, D f], d := D f, a := A f, b := A f,
      reserve := bulkReserve (v (A f)).u (v (A f)).card (v (A f)).panesBound })
  | .setXcard f op => some (f, {
      kind := .xcard op (readS s.warp f.d).toNat, obj := ob f,
      loc := some (readS s.warp f.d).toNat, hs := [A f, B f], d := A f, a := A f, b := B f })
  | .setImport f repl => some (f, {
      kind := .import_ repl (sval s.warp f.a) (num f), obj := ob f, hs := [D f], d := D f, a := D f,
      b := D f, bad := badArray (sval s.warp f.a) (num f) 4, range := [⟨sval s.warp f.a, 4 * num f, [.engRead], 4⟩],
      reserve := let x := v (D f)
        bulkReserve x.u (min x.u (num f + if repl then 0 else x.card))
          (if x.u ≤ 4096 then 1 else min (maxPanes x.u) (num f + if repl then 0 else x.panesBound)) })
  | .setExport f => some (f, {
      kind := .export_ (readS s.warp f.d) (num f), obj := ob f, hs := [A f], d := A f, a := A f, b := A f,
      bad := badArray (readS s.warp f.d) (num f) 8, range := [⟨readS s.warp f.d, 8 + 4 * num f, [.engWrite], 4⟩] })
  | _ => none
where
  A (f : Ops) : Word := (sval s.warp f.a).setWidth 32
  B (f : Ops) : Word := (sval s.warp f.b).setWidth 32
  D (f : Ops) : Word := (readS s.warp f.d).setWidth 32
  ob (f : Ops) : Nat := (sval s.warp f.c).toNat
  num (f : Ops) : Nat := (sval s.warp f.b).toNat
  v (h : Word) : SetVal := s.ctx.val h

/-! Control flow (R258 to R272). -/

/-- A target field (R260). -/
def targetOf (w : Warp) (f : Src) : DWord := match f with | .sca r => readS w r | f => w.pc + 4 * sval w f
/-- The transfers (R261): operands, whether it is taken, its target, and the link register. -/
def transferRow (w : Warp) : Instr → Option (Opd × Bool × DWord × Option Reg)
  | .jmp f => some (opd f, true, targetOf w f.a, none)
  | .call f => some (opd f, true, targetOf w f.a, some f.d)
  | .calli f => some (opd f, true, targetOf w f.a, some f.d)
  | .calliC f => some (copdS f, true, readS w f.a, some f.d)
  | .ret f => some (opd f, true, targetOf w f.a, none)
  | .retC f => some (copdS f, true, readS w f.a, none)
  | .br f => some (opd f, decide (sval w f.a ≠ 0), targetOf w f.b, none)
  | .brAny f => some (opd f, decide (sval w f.a &&& w.exec ≠ 0), targetOf w f.b, none)
  | .brAll f => some (opd f, decide (w.exec &&& ~~~(sval w f.a) = 0), targetOf w f.b, none)
  | .brNone f => some (opd f, decide (sval w f.a &&& w.exec = 0), targetOf w f.b, none)
  | _ => none
/-- Every member of cohort `k` has arrived or exited (R262). -/
def State.phaseDone (s : State) (n k : Nat) : Prop :=
  (((s.wgAt n).cohort k).arrived ||| s.exited n) &&& ((s.wgAt n).cohort k).members = ((s.wgAt n).cohort k).members
/-- A cohort entry after its phase has completed (R262). -/
def Cohort.next (e : Cohort) : Cohort := { e with phase := !e.phase, arrived := 0, payload := popIdentity e.pop }
/-- A waiting warp whose instruction retires: on to the next one (R259, R295). -/
def Warp.proceeds (w : Warp) : Warp :=
  { w with run := .running, pc := w.pc + BitVec.ofNat 64 w.blkLen, fetched := [], notice := w.notice.map (· + 1) }
/-- A warp that waits at BAR of cohort `k`, halted there or not, after the phase has completed with `r`; any other warp
as it was (R262, R295, R296). -/
def Warp.passed (w : Warp) (k : Nat) (r : DWord) : Warp :=
  match w.run with
  | .bar c d => if c = k then (writeS w d r).proceeds else w
  | .halted (some (c, d)) b => if c = k then { writeS w d r with run := .halted none b, pc := w.pc + BitVec.ofNat 64 w.blkLen } else w
  | _ => w
/-- The cohort at whose BAR a warp waits. -/
def Run.atBar : Run → Option Nat
  | .bar c _ => some c
  | .halted (some (c, _)) _ => some c
  | _ => none
/-- A warp blocked at its instruction, whose words it keeps, and which has not retired; its stint has ended (R13, R259). -/
def Warp.blockedAt (w : Warp) (r : Run) (len : Nat) (iw : List Word) : Warp :=
  { w with run := r, blkLen := len, stint := none, stall := none, fetched := iw, rob := [], held := none }
/-- The same of a wait that an asynchronous entry abandons: where one is in its queue outside handler mode, the warp is at the
instruction again at once (R291). -/
def Warp.waitsAt (w : Warp) (r : Run) (len : Nat) (iw : List Word) : Warp :=
  if w.handler = false ∧ w.trapQ ≠ [] then w.blockedAt .running len [] else w.blockedAt r len iw
/-- A waiting warp that executes its instruction afresh, from the words that it fetched (R13, R267). -/
def Warp.afresh (w : Warp) : Warp :=
  { w with run := .running, rob := (if w.fetched = [] then [] else [⟨w.fetched, false, true, false, none⟩]) ++ w.rob }
/-- The next instruction to execute is the first of a stint: the oldest dispatched one, or with none dispatched the next that
the warp dispatches (R246, R289). -/
def Warp.atStintStart (w : Warp) : Prop :=
  match w.rob with
  | e :: _ => e.first = true
  | [] => w.stint = none ∨ w.stint = some 0
/-- The words of the warp's next instruction, if it holds them: those kept while it waited, else its oldest dispatched
instruction's (R13, R247). -/
def Warp.nextWords (w : Warp) (ws : List Word) : Prop :=
  (w.fetched ≠ [] ∧ ws = w.fetched) ∨ (w.fetched = [] ∧ (w.rob.map RobEntry.iw).head? = some ws)
/-- After warp `k` has tried an instruction: one that waits in flight has been dispatched, and counts in the stint that the
warp is bound for, which may end with it (R44, R184, R210, R246, R247). -/
def State.tried (t : State) (k : Nat) (i : Instr) (ws : List Word) : State :=
  let w := t.warpAt k
  match w.stint, w.stall with
  | some n, some .migrate | some n, some .act | some n, some (.sepia ..) | some n, some (.accr ..) =>
    if w.rob = [] then t.setWarpAt k { w with
      rob := [⟨ws, decide (n = 0), blocking i, turning i, sepiaUse t.nextCmd i⟩]
      stint := if ending i = true ∨ 24 ≤ n + 1 then none else some (n + 1) }
    else t
  | _, _ => t
/-- A warp that has exited (R272). -/
def Warp.ended (w : Warp) : Warp :=
  { w with run := .exited, stint := none, stall := none, fetched := [], rob := [], held := none, notice := none }
/-- The word that a launch counts in, if it has one, has gone up by 1, unless its line is poisoned; no other byte of memory
differs (R269). -/
def State.counted (s t : State) (counter : Option Nat) : Prop :=
  match counter with
  | none => t.mem = s.mem
  | some key =>
    if s.linePoisoned key then t.mem = s.mem
    else leNat (t.readMem key 8) = (leNat (s.readMem key 8) + 1) % 2 ^ 64
      ∧ ∀ b, ¬(key ≤ b ∧ b < key + 8) → t.readMem b 1 = s.readMem b 1
/-- Only the executing warp differs, and it is `w`. -/
def State.nowAt (s t : State) (k : Nat) (w : Warp) : Prop := t.warpAt k = w ∧ ∀ j, j ≠ k → t.warpAt j = s.warpAt j

/-! Exceptions (R286 to R299). -/

/-- The instructions and words whose effect is a trap (R12, R26, R27, R309): the cause and the address. -/
def trapRow (w : Warp) : Instr → Option (Byte × DWord)
  | .trap f => some (0x29, sval w f.a)
  | .bkpt f => some (0x28, sval w f.a)
  | .illegalLength _ => some (0x01, w.pc)
  | .undefinedOpcode .. => some (0x02, w.pc)
  | .emulatedOpcode .. => some (0x05, w.pc)
  | _ => none
/-- Warp `k` has entered its handler for entry `e`, whose vector entry reads `vec`, with `rest` still queued: R292's saved
registers, exec, hs0, hs1, mode and PC, and the frame of R293 in its slot; no other byte of the scratchpads and no other
warp differs. -/
def State.entered (s t : State) (k : Nat) (e : TrapEntry) (rest : List TrapEntry) (vec : DWord) : Prop :=
  let w := s.warpAt k
  let g := s.wgAt (wgOf k)
  let p := g.base + g.frame (warpNo k)
  s.nowAt t k { w with
    trapQ := rest, ovf := false, texec := w.exec, tpc := e.pc, handling := some e, exec := wmask g.fp.width
    hs := (t.warpAt k).hs, handler := true, pc := vec &&& ~~~3, stint := none, stall := none
    fetched := [], rob := [], held := none, sleep := none, run := .running }
  ∧ Tab.get 0 0 (t.warpAt k).hs = BitVec.ofNat 64 (g.frame (warpNo k)) ∧ Tab.get 0 1 (t.warpAt k).hs = e.cause.setWidth 64
  ∧ (∀ r, 2 ≤ r → Tab.get 0 r (t.warpAt k).hs = Tab.get 0 r w.hs)
  ∧ t.padRead g.core p 64 = frameBytes e.cause ((if w.ovf then 1 else 0) + if e.async then 2 else 0) 0 rest.length 0 e.pc e.iw
      e.exec e.lanes e.addr e.detail
  ∧ (∀ q, ¬(p ≤ q ∧ q < p + 64) → t.padRead g.core q 1 = s.padRead g.core q 1) ∧ s.otherCores g.core t
/-- Nothing keeps warp `k` from entering its handler at once: it is in normal mode, running, not told to halt, none of its
reductions is on its way, no debugger has claimed the cause, no broadcast is under way and no other warp of the workgroup has a
HALT_GROUP trap that nobody has decided (R288, R297, R321). -/
def State.deliverable (s : State) (k : Nat) (cause : Byte) : Prop :=
  let w := s.warpAt k
  w.handler = false ∧ w.run = .running ∧ w.notice = none ∧ (s.wgAt (wgOf k)).haltBy = none
    ∧ (∀ r ∈ s.reds, 32 * r.wg + r.warp ≠ k) ∧ (∀ j ∈ (s.wgAt (wgOf k)).keys (wgOf k), j ≠ k → (s.warpAt j).raised = none)
    ∧ ((s.ctxAt (s.wgAt (wgOf k)).ctx).debugger.any fun d => d.claims.getLsbD cause.toNat) = false
/-- A warp that has stopped where it stood (R295, R298). -/
def Warp.halted (w : Warp) (inBar : Option (Nat × Reg)) : Warp :=
  { w with run := .halted inBar false, stint := none, stall := none, fetched := [], rob := [], held := none, notice := none }
/-- The workgroup's broadcast after a trap: that of a HALT_GROUP trap (R288, R295). -/
def broadcastOf (pol : Policy) (k : Nat) (e : TrapEntry) (vec : DWord) : Option HaltBy :=
  if pol = .haltGroup then some ⟨warpNo k, e, some vec, none⟩ else none

/-- A warp that a broadcast halted, once it resumes; any other warp as it was (R296). -/
def Warp.released (w : Warp) : Warp :=
  match w.run with
  | .halted (some (c, d)) false => { w with run := .bar c d, own := 0 }
  | .halted none false => { w with run := .running, own := 0 }
  | _ => w
/-- A warp that an asynchronous entry reaches, its pending-launch queue full or not: queued behind the others, and outside
handler mode its wait at AWAIT, BWAIT, JOIN, LDF or a LAUNCH on the full queue abandoned (R289, R291). -/
def Warp.reached (w : Warp) (cause : Byte) (detail : DWord) (full : Bool) : Warp :=
  let w' := { w with trapQ := w.trapQ ++ [{ cause := cause, pc := 0, detail := detail, async := true }] }
  if w.handler then w' else match w.run with
    | .await .. | .bwait .. | .join _ | .ldf => { w' with run := .running, fetched := [], held := none }
    | .launch .. => if full then { w' with run := .running, fetched := [], held := none } else w'
    | _ => w'
/-- What SYSR of a system register reads (R312). -/
def State.sysReg (s : State) (r : SysReg) : DWord :=
  match r with
  | .fmode => s.warp.fmode
  | .clk => BitVec.ofNat 64 s.core.clk
  | .tvb => s.warp.tvb
  | .tpc => s.warp.tpc
  | .texec => s.warp.texec
  | .wloc => BitVec.ofNat 64 (s.wg.core / 64 * 2 ^ 16 + s.wg.core % 64 * 2 ^ 8 + s.warp.slot * 2 ^ 4 + s.warp.wctx)
  | .cerr => s.core.cerr
  | .tqd => BitVec.ofNat 64 s.warp.trapQ.length
/-- The warp after a legal SYSW, and whether the value is legal (R312). -/
def sysWritten (w : Warp) (width : Nat) (r : SysReg) (v : DWord) : Warp × Prop :=
  match r with
  | .fmode => ({ w with fmode := v }, v.toNat < 8)
  | .tvb => ({ w with tvb := v }, canonical v = true ∧ v.toNat % 2048 = 0)
  | .tpc => ({ w with tpc := v }, True)
  | .texec => ({ w with texec := v &&& wmask width }, True)
  | _ => (w, False)

/-! Translation commands and scheduling. -/

/-- A translation command's object lies in a scratchpad of the package. -/
def XFields.hasObject (x : XFields) : Prop := x.core < 256 ∧ x.loff % 16 = 0 ∧ x.loff + 16 ≤ 2 ^ 20
/-- A translation command has arrived with flags `f` (R42): its object takes an arrival of 32, and nothing else of the
scratchpads differs; a record whose object lies in none changes no core. The core has no latent error. -/
def State.xArrived (s t : State) (x : XFields) (f : Nat) : Prop :=
  (x.hasObject → (s.coreAt x.core).latent = [] →
    s.otherCores x.core t ∧ s.arrived t x.core x.loff 32 f
      ∧ t.coreAt x.core = { s.coreAt x.core with pad := (t.coreAt x.core).pad, poison := (t.coreAt x.core).poison })
  ∧ (¬x.hasObject → t.cores = s.cores)
/-- The ready warps of an issue slot, and those of them of the highest priority (R248, R250). -/
def State.readyIn (s : State) (core slot : Nat) : List Nat :=
  (((s.placedWarps core).filter fun p => p.2.slot = slot).filter fun p =>
    p.2.ready && (s.wgAt (wgOf p.1)).place = .resident).map Prod.fst
def State.topIn (s : State) (core slot : Nat) : List Nat :=
  (s.readyIn core slot).filter fun k => (s.readyIn core slot).all fun j => s.prioOf j ≤ s.prioOf k
/-- None of the list is older than `k` (R249). -/
def State.oldestOf (s : State) (l : List Nat) (k : Nat) : Prop := k ∈ l ∧ ∀ j ∈ l, s.older j k = false

/-! The host, the fabric and management. -/

/-- An error record has been appended to a context's ring, which had room (R317); no other byte of memory and no other
context differs. -/
def State.recorded (s t : State) (ctx : Nat) (r : ErrRec) : Prop :=
  let c := s.ctxAt ctx
  let at_ := c.err + 64 * (c.errTail.toNat % c.errn)
  s.otherCtxs ctx t ∧ t.ctxAt ctx = { c with errTail := c.errTail + 1 } ∧ t.readMem at_ 64 = r.bytes
    ∧ ∀ a, ¬(at_ ≤ a ∧ a < at_ + 64) → t.readMem a 1 = s.readMem a 1
/-- Two error records have been appended to a context's ring, which had room for both; no other byte of memory and no other
context differs (R298, R317). -/
def State.recordedTwo (s t : State) (ctx : Nat) (r1 r2 : ErrRec) : Prop :=
  let c := s.ctxAt ctx
  let a1 := c.err + 64 * (c.errTail.toNat % c.errn)
  let a2 := c.err + 64 * ((c.errTail + 1).toNat % c.errn)
  s.otherCtxs ctx t ∧ t.ctxAt ctx = { c with errTail := c.errTail + 2 } ∧ (a1 ≠ a2 → t.readMem a1 64 = r1.bytes)
    ∧ t.readMem a2 64 = r2.bytes
    ∧ ∀ a, ¬(a1 ≤ a ∧ a < a1 + 64) → ¬(a2 ≤ a ∧ a < a2 + 64) → t.readMem a 1 = s.readMem a 1
/-- Its error ring has room for two records. -/
def State.ringRoomTwo (s : State) (ctx : Nat) : Prop :=
  ((s.ctxAt ctx).errTail - (s.ctxAt ctx).errHead).toNat + 1 < (s.ctxAt ctx).errn ∧ (s.ctxAt ctx).errn < 2 ^ 32
/-- The error records of a workgroup that a broadcast or a double fault has halted (R296, R298, R300). -/
def HaltBy.record (h : HaltBy) (g : Wg) : ErrRec :=
  { kind := 4, cause1 := h.trap.cause.toNat, warp := h.warp, unit := g.core, seq := g.seq, index := g.index, pc1 := h.trap.pc
    addr1 := h.trap.addr }
def HaltBy.recorded (h : HaltBy) (g : Wg) (s t : State) : Prop :=
  match h.double with
  | none => s.recorded t g.ctx (h.record g)
  | some (c, pc, a) => s.recordedTwo t g.ctx { h.record g with kind := 1, cause2 := c, pc2 := pc, addr2 := a } (h.record g)
/-- The context's error ring has room. -/
def State.ringRoom (s : State) (ctx : Nat) : Prop := ((s.ctxAt ctx).errTail - (s.ctxAt ctx).errHead).toNat < (s.ctxAt ctx).errn
/-- A status has been written to the ring of host queue `q` (R318, R320): STAIL advances, and the vector of the queue signals
where QCTL asks for it. Nothing else differs. -/
def State.statused (s t : State) (q code arg : Nat) : Prop :=
  let x := s.hostqAt q
  let at_ := memKey 2 (x.sbase.toNat + 16 * (x.stail.toNat % x.ssize.toNat))
  t = { s with hostqs := t.hostqs, mem := t.mem, msix := t.msix, msixPending := t.msixPending }
    ∧ (∀ p, t.hostqAt p = if p = q then { x with stail := x.stail + 1 } else s.hostqAt p)
    ∧ t.readMem at_ 16 = leBytes 8 code ++ leBytes 8 arg
    ∧ (∀ a, ¬(at_ ≤ a ∧ a < at_ + 16) → t.readMem a 1 = s.readMem a 1)
    ∧ (x.qctl.getLsbD 1 = false → t.msix = s.msix ∧ t.msixPending = s.msixPending)
/-- The head entry of host queue `q` has been consumed: QHEAD advances, and nothing else. -/
def State.took (s : State) (q : Nat) : State := s.setHostqAt q { s.hostqAt q with qhead := (s.hostqAt q).qhead + 1 }
/-- The head entry of host queue `q` has been consumed and answered, on top of the effect that made `e`. -/
def State.answered (e t : State) (q code arg : Nat) : Prop := (e.took q).statused t q code arg
/-- The entry of this kind and context that is at the head of host queue `q` and may be consumed. -/
def State.heads (s : State) (q kind ctx : Nat) (b : List Byte) : Prop :=
  s.qEntry q = some b ∧ qf b 0 1 = kind ∧ qf b 4 4 = ctx ∧ ctx < 4096
/-- A ring size of a host queue is legal (R320). -/
def ringSize (v : Word) : Prop := ∃ k, 4 ≤ k ∧ k ≤ 16 ∧ v.toNat = 2 ^ k
/-- Only the registers of host queue `q` differ, and they are `x`. -/
def State.queueNow (s t : State) (q : Nat) (x : HostQ) : Prop :=
  t = { s with hostqs := t.hostqs } ∧ ∀ p, t.hostqAt p = if p = q then x else s.hostqAt p

/-- Only context `c` differs, and it is `x`. -/
def State.ctxNow (s e : State) (c : Nat) (x : Ctx) : Prop := e = { s with ctxs := e.ctxs } ∧ s.otherCtxs c e ∧ e.ctxAt c = x
/-- A stopped warp that the debugger resumes at `pc` (R310, R321). -/
def Warp.resumedAt (w : Warp) (pc : DWord) : Warp :=
  { w with handler := false, exec := w.texec, pc := pc, handling := none, stint := none, stall := none, fetched := [], rob := []
           held := none, run := .running }
/-- The warps of a context that the debugger has stopped and that an entry names by SEQ, INDEX and mask; none of a workgroup
that has double-faulted (R298, R321). -/
def State.stoppedBy (s : State) (ctx : Nat) (b : List Byte) : List Nat :=
  (s.named ctx (qf b 8 8) (qf b 16 4) (qf b 24 8)).filter fun k => (s.warpAt k).stopped && !(s.wgAt (wgOf k)).dead
/-- No trap waits for warp `k` and its workgroup has no broadcast under way. -/
def State.quiet (s : State) (k : Nat) : Prop := (s.warpAt k).trapQ = [] ∧ (s.wgAt (wgOf k)).haltBy = none

/-- Every register, field and queue that a rule gives a value at reset has it: no grid, workgroup, warp or context; BAR0 and
EVCAUSE are 0; every core's clock and error count are 0, its queues are empty and its slots' K is 0; every die's last placement
was on core 63; sequence numbers start at 1 (R249, R250, R254, R312, R317, R320). -/
def State.resetValues (s : State) : Prop :=
  s.wgs = [] ∧ s.warps = [] ∧ s.grids = [] ∧ s.nextSeq = 1 ∧ s.bar2win = 0 ∧ s.evcause = 0 ∧ s.dstat = 0
    ∧ (∀ q, s.hostqAt q = { qbase := 0, qsize := 0, qceil := 0, qhead := 0, qtail := 0, sbase := 0, ssize := 0, stail := 0
                            shead := 0, qctl := 0 })
    ∧ (∀ c, (s.coreAt c).clk = 0 ∧ (s.coreAt c).cerr = 0 ∧ (s.coreAt c).matq = [] ∧ (s.coreAt c).bank = []
      ∧ (∀ q, s.queue c q = []) ∧ ∀ i, (Tab.get ({} : Slot) i (s.coreAt c).slots).k = 0)
    ∧ (∀ d, (s.dieAt d).lastCore = 63)
    ∧ ∀ c, (s.ctxAt c).registered = false ∧ (s.ctxAt c).errHead = 0 ∧ (s.ctxAt c).errTail = 0 ∧ (s.ctxAt c).errDrop = 0
      ∧ (s.ctxAt c).dbgHead = 0 ∧ (s.ctxAt c).dbgTail = 0 ∧ (s.ctxAt c).cstat = 0

end Sys2Proof.Machine
end

