-- ==== Sys2Proof/Certificates/Slice0/Obligations.lean ====
section
/-! DEFINITION. The statements for the provers. `exec` is the machine's; the tables of results are in Safety.lean. -/

open Sys2Proof Sys2Proof.Machine

/-- R169, R170: each scalar instruction completes and S(D) receives its result; s0 still reads 0; nothing else differs. -/
def Obligations.ScalarResults : Prop :=
  ∀ i o g s, scalarRow i = some (o, g) →
    ∃ t w', exec i s = .next t ∧ Completes o w' s t ∧ Warp.onlyScalar o.d s.warp w'
      ∧ w'.gives o.d (g (sval s.warp o.a) (sval s.warp o.b) (sval s.warp o.c))

/-- R171, R172, R165: the mask instructions complete, exec receives the result cut to W bits, MASK.IF and EXRD give D the
exec of before, and nothing else differs. -/
def Obligations.MaskResults : Prop :=
  (∀ i o b g s, maskRow i = some (o, b, g) →
    ∃ t w', exec i s = .next t ∧ Completes o w' s t
      ∧ w'.exec = g s.wm s.warp.exec (readS s.warp o.d) (sval s.warp o.a) &&& s.wm
      ∧ Warp.onlyScalar o.d s.warp { w' with exec := s.warp.exec }
      ∧ (if b then w'.gives o.d s.warp.exec else readS w' o.d = readS s.warp o.d))
  ∧ ∀ i o s, execReadRow i = some o →
    ∃ t w', exec i s = .next t ∧ Completes o w' s t ∧ Warp.onlyScalar o.d s.warp w' ∧ w'.gives o.d s.warp.exec

/-- R172: BALLOT sets the bit of each active lane whose value is not 0, and no other; MPREFIX gives each active lane the
number of set bits of the mask below it. -/
def Obligations.MaskQueries : Prop :=
  (∀ f s, ∃ t w' m, exec (.ballot f) s = .next t ∧ Completes (opd f) w' s t ∧ Warp.onlyScalar f.d s.warp w' ∧ w'.gives f.d m
    ∧ ∀ l, m.getLsbD l = (decide (l < s.width) && s.warp.active l && decide (lane32 s.warp s.width f.a l ≠ 0)))
  ∧ ∀ f s, ∃ t w', exec (.mprefix f) s = .next t ∧ Completes (opd f) w' s t ∧ Warp.onlyVector [f.d] s.warp w'
    ∧ s.warp.givesLanes w' s.width false f.d
      (fun l => BitVec.ofNat 32 ((List.range l).countP fun j => (sval s.warp f.a).getLsbD j))

/-- What the results of the tables are. R169, R172, R173: what SPOP, SCLZ, SCTZ, POPC, CLZ, CTZ and MFIRST count. R55, R57,
R177 to R179: the float operations give the IEEE 754 result of what their patterns stand for, rounded once, with the special
values; FMIN, FMAX, the sign operations, the rounding to integral values, the compares and FCLASS. R180, R181: the special functions
where those rules give the value exactly, or as a root or a reciprocal, rounded to nearest. R58, R59: a lane of CVT and of BFPU.
R188: the order of the sort keys. -/
def Obligations.BitCounts : Prop :=
  (∀ n v, v < 2 ^ n →
    popcount n v = ((List.range n).filter fun i => v.testBit i).length
    ∧ (v = 0 → clz n v = n ∧ ctz n v = n)
    ∧ (v ≠ 0 → clz n v < n ∧ v.testBit (n - 1 - clz n v) = true ∧ ∀ i, n - 1 - clz n v < i → v.testBit i = false)
    ∧ (v ≠ 0 → v.testBit (ctz n v) = true ∧ ∀ i, i < ctz n v → v.testBit i = false))
  ∧ (∀ f ∈ [F32, F16, BF16], ∀ rm ftz x y z, x < 2 * f.signW → y < 2 * f.signW → z < 2 * f.signW →
    let d := f.datum ftz
    f.writes rm false ftz ((d x).add rm (d y)) (f.add rm ftz x y)
    ∧ f.writes rm false ftz ((d x).add rm (d y).negate) (f.sub rm ftz x y)
    ∧ f.writes rm false ftz ((d x).mul (d y)) (f.mul rm ftz x y)
    ∧ f.writes rm false ftz (((d x).mul (d y)).add rm (d z)) (f.fma rm ftz x y z)
    ∧ f.writes rm false ftz (((d x).mul (d y)).add rm (d z).negate) (f.fms rm ftz x y z)
    ∧ (∀ mx, let r := f.minMax mx ftz x y
        (d x = .nan → d y = .nan → r = f.nan) ∧ (d x = .nan → d y ≠ .nan → f.datum false r = d y)
        ∧ (d x ≠ .nan → d y = .nan → f.datum false r = d x)
        ∧ ((d x).before (d y) → f.datum false r = if mx then d y else d x)
        ∧ (d x ≠ .nan → d y ≠ .nan → ¬(d x).before (d y) → f.datum false r = if mx then d x else d y))
    ∧ (∀ neg, (d x = .nan → f.setSign ftz neg x = f.nan)
        ∧ (d x ≠ .nan → f.datum false (f.setSign ftz neg x) = (d x).signed neg))
    ∧ (d x = .nan → f.integral rm ftz x = f.nan)
    ∧ (∀ neg, d x = .inf neg → f.datum false (f.integral rm ftz x) = .inf neg)
    ∧ (∀ neg v, d x = .num neg v → ∃ n : Nat, roundsTo rm neg |v| n
        ∧ f.datum false (f.integral rm ftz x) = .num neg (if neg then -(n : ℝ) else n))
    ∧ (f.ltB ftz x y = true ↔ (d x).lt (d y))
    ∧ (f.eqB ftz x y = true ↔ d x ≠ .nan ∧ d y ≠ .nan ∧ ¬(d x).lt (d y) ∧ ¬(d y).lt (d x))
    ∧ (f.leB ftz x y = true ↔ d x ≠ .nan ∧ d y ≠ .nan ∧ ¬(d y).lt (d x))
    ∧ (f.isNan x = true ↔ d x = .nan)
    ∧ ∀ fn r, (d x).special fn = some r → f.writes .rne false ftz r (f.special fn ftz x))
  ∧ (∀ x : Word, match F32.datum false x.toNat with
    | .nan => fclass x.toNat = if x.getLsbD 22 then 2 ^ 9 else 2 ^ 8
    | .inf neg => fclass x.toNat = if neg then 2 ^ 0 else 2 ^ 7
    | .num neg v =>
      (v = 0 → fclass x.toNat = if neg then 2 ^ 3 else 2 ^ 4)
      ∧ (v ≠ 0 → |v| < 2 ^ (-126 : ℤ) → fclass x.toNat = if neg then 2 ^ 2 else 2 ^ 5)
      ∧ ((2 : ℝ) ^ (-126 : ℤ) ≤ |v| → fclass x.toNat = if neg then 2 ^ 1 else 2 ^ 6))
  ∧ (∀ dst src rnd sat (w : Warp) (x y : Word),
    let rm := rnd.getD w.rm
    let r := (cvtLane dst src rnd sat w x y).toNat
    (dst.isPair = false → src.isPair = false → converted dst rm sat w.ftz (srcDatum src w.ftz x) r)
    ∧ (dst.isPair = true → src.isPair = true →
      converted dst rm sat w.ftz (srcDatum src w.ftz x) (r % 2 ^ 16)
        ∧ converted dst rm sat w.ftz (srcDatum src w.ftz (x >>> (16 : Nat))) (r / 2 ^ 16))
    ∧ (dst.isPair = true → src = .f32 →
      converted dst rm sat w.ftz (srcDatum .f32 w.ftz x) (r % 2 ^ 16)
        ∧ converted dst rm sat w.ftz (srcDatum .f32 w.ftz y) (r / 2 ^ 16)))
  ∧ (∀ mc (w : Warp) (x : Word),
    let q := (x.setWidth (mcodeM mc)).toInt
    let r := bfpuLane (mcodeM mc) w x
    (x.getLsbD 24 = false → r = 0)
    ∧ (x.getLsbD 24 = true →
      F32.writes w.rm false w.ftz (.num (decide (q < 0)) (q * 2 ^ (((x.extractLsb' 16 8).toNat : ℤ) - 127))) r.toNat))
  ∧ ∀ x y : Word,
    (keyRank .i32 x < keyRank .i32 y ↔ x.toInt < y.toInt) ∧ (keyRank .u32 x < keyRank .u32 y ↔ x.toNat < y.toNat)
    ∧ let d := fun x : Word => F32.datum false x.toNat
      (keyRank .f32 x < keyRank .f32 y ↔ (d x).lt (d y) ∨ d x ≠ .nan ∧ d y = .nan)

/-- R173, R30, R162: every vector integer instruction of 32-bit lanes completes (ADD, SUB, MUL, MULH, MULHU, MAD, ADDS, SUBS,
ADDUS, SUBUS, AND, OR, XOR, ANDN, SHL, SHR, SRA, ROT, MIN, MAX, MINU, MAXU, ABS, NEG, MOV, POPC, CLZ, CTZ, DIV, DIVU, REM and REMU,
and their C forms), and under exec each lane receives the result of its sources' lanes, or under U lane 0's. ADDS, SUBS, ADDUS and
SUBUS saturate: each active lane holds the sum or difference, signed or unsigned, that is nearest in range. -/
def Obligations.VectorIntegerResults : Prop :=
  (∀ i o srcs g s, intRow i = some (o, srcs, g) → s.warp.exec ≠ 0 → (o.u = true → firstNonUni s.warp srcs = none) →
    ∃ t w', exec i s = .next t ∧ Completes o w' s t ∧ Warp.onlyVector [o.d] s.warp w'
      ∧ s.warp.givesLanes w' s.width o.u o.d
        (fun l => g (lane32 s.warp s.width o.a l) (lane32 s.warp s.width o.b l) (lane32 s.warp s.width o.c l)))
  ∧ ∀ (f : Ops) s, s.warp.exec ≠ 0 → (f.u = true → firstNonUni s.warp (srcsOf [f.a, f.b]) = none) →
    let x := fun l => lane32 s.warp s.width f.a (bodyLane f.u l)
    let y := fun l => lane32 s.warp s.width f.b (bodyLane f.u l)
    let holds := fun (i : Instr) (p : Nat → Word → Prop) =>
      ∃ t w', exec i s = .next t ∧ Completes (opd f) w' s t ∧ Warp.onlyVector [f.d] s.warp w'
        ∧ ∀ l, l < s.width → l < 64 → s.warp.active l = true → p l ((readV w' f.d).lane l)
    holds (.adds f) (fun l r => r.toInt = max (-2 ^ 31) (min ((x l).toInt + (y l).toInt) (2 ^ 31 - 1)))
    ∧ holds (.subs f) (fun l r => r.toInt = max (-2 ^ 31) (min ((x l).toInt - (y l).toInt) (2 ^ 31 - 1)))
    ∧ holds (.addus f) (fun l r => r.toNat = min ((x l).toNat + (y l).toNat) (2 ^ 32 - 1))
    ∧ holds (.subus f) fun l r => r.toNat = (x l).toNat - (y l).toNat

/-- R177, R178, R180, R58, R59: the same of the vector float instructions, conversions and special functions, whose results
depend on fmode. -/
def Obligations.VectorFloatResults : Prop :=
  ∀ i o srcs g s, floatRow i = some (o, srcs, g) → s.warp.exec ≠ 0 → (o.u = true → firstNonUni s.warp srcs = none) →
    ∃ t w', exec i s = .next t ∧ Completes o w' s t ∧ Warp.onlyVector [o.d] s.warp w'
      ∧ s.warp.givesLanes w' s.width o.u o.d
        (fun l => g s.warp (lane32 s.warp s.width o.a l) (lane32 s.warp s.width o.b l) (lane32 s.warp s.width o.c l))

/-- R173, R179: a vector compare completes; S(D) holds the bit of each active lane in which the relation holds, under U that
of lane 0, and 0 elsewhere. -/
def Obligations.CompareMasks : Prop :=
  ∀ i o g s, cmpRow i = some (o, g) → s.warp.exec ≠ 0 →
    (o.u = true → firstNonUni s.warp (srcsOf [o.a, o.b]) = none) →
    ∃ t w' m, exec i s = .next t ∧ Completes o w' s t ∧ Warp.onlyScalar o.d s.warp w' ∧ w'.gives o.d m
      ∧ ∀ l, m.getLsbD l = (decide (l < s.width) && s.warp.active l
        && g s.warp (lane32 s.warp s.width o.a (bodyLane o.u l)) (lane32 s.warp s.width o.b (bodyLane o.u l)))

/-- R176: the 64-bit vector instructions complete, and under exec the pair of D receives the result, low half in D. -/
def Obligations.PairResults : Prop :=
  ∀ i o srcs b64 g s, pairRow i = some (o, srcs, b64, g) → s.warp.exec ≠ 0 →
    (o.u = true → firstNonUni s.warp srcs = none) →
    ∃ t w', exec i s = .next t ∧ Completes o w' s t ∧ Warp.onlyVector [o.d, o.d + 1] s.warp w'
      ∧ ∀ l, l < s.width → l < 64 → (readV w' (o.d + 1)).lane l ++ (readV w' o.d).lane l =
        if s.warp.active l then
          g (lane64 s.warp s.width o.a (bodyLane o.u l))
            (if b64 then lane64 s.warp s.width o.b (bodyLane o.u l)
             else (lane32 s.warp s.width o.b (bodyLane o.u l)).setWidth 64)
        else (readV s.warp (o.d + 1)).lane l ++ (readV s.warp o.d).lane l

/-- R174, R175: SEL chooses by the bit of a scalar C or by a lane of C; VIDX and VAFF give base plus lane times stride; VTAG
gives the tag's code, whatever exec holds. -/
def Obligations.SelectIndexTag : Prop :=
  (∀ f s, s.warp.exec ≠ 0 → (f.u = true → firstNonUni s.warp (srcsOf [f.a, f.b, f.c]) = none) →
    ∃ t w', exec (.sel f) s = .next t ∧ Completes (opd f) w' s t ∧ Warp.onlyVector [f.d] s.warp w'
      ∧ s.warp.givesLanes w' s.width f.u f.d fun l =>
        if (match f.c with | .sca r => (readS s.warp r).getLsbD l | c => decide (lane32 s.warp s.width c l ≠ 0)) then
          lane32 s.warp s.width f.a l else lane32 s.warp s.width f.b l)
  ∧ (∀ i o b st s, affineRow s.warp i = some (o, b, st) → s.warp.exec ≠ 0 →
    ∃ t w', exec i s = .next t ∧ Completes o w' s t ∧ Warp.onlyVector [o.d] s.warp w'
      ∧ s.warp.givesLanes w' s.width o.u o.d (fun l => b + BitVec.ofNat 32 l * st)
      ∧ (readV w' o.d).tag = s.tagAfter o.u .aff ∧ (s.warp.exec = s.wm → o.u = false → readV w' o.d = .aff b st))
  ∧ ∀ i o r s, vtagRow i = some (o, r) →
    ∃ t w', exec i s = .next t ∧ Completes o w' s t ∧ Warp.onlyScalar o.d s.warp w'
      ∧ w'.gives o.d (tagNumber (readV s.warp r))

/-- R82, R115, R116, R141, R143, R150, R165, R168, R184, R203, R231: with exec empty a vector instruction, a per-lane access of
memory, the scratchpad, the banks, the tag partition or a set, an async copy, arrival, decoder, BULK, BCPY, ACTLD or matrix
instruction, and one that creates, frees, inspects or combines sets retires with no effect, whatever its operands hold and
whichever queue is full. R233, R246: an LDF does too, and its stint ends whatever S holds. -/
def Obligations.EmptyExec : Prop :=
  (∀ i o s, idleRow i = some o → s.warp.exec = 0 → ∃ t, exec i s = .next t ∧ Completes o s.warp s t)
  ∧ ∀ f g wd so s, s.warp.exec = 0 → ∃ t, exec (.ldf f g wd so) s = .next t ∧ Completes { opd f with s := true } s.warp s t

/-- R163: under U, a vector source that does not count as UNI takes the exception 0x04, whose address is the index of the
first such field: 0 to 2 for A to C, and 3 for the data of ST and the compare value of CAS. Its lanes are exec. That BFPK at 16
lanes takes both registers of its pair as sources is the model's choice (log 15). -/
def Obligations.UniformSources : Prop :=
  ∀ i o srcs n s, uniformRow s.warp s.width i = some (o, srcs) → s.warp.exec ≠ 0 → o.u = true →
    firstNonUni s.warp srcs = some n → exec i s = .next (s.raise 0x04 s.warp.exec (BitVec.ofNat 64 n))

/-- R162: the tag of a vector result. With every lane active and no U, ADD, SUB and MUL of UNI and AFF sources give the UNI or
AFF register that the lanes' values are; any other 32-bit integer result is GEN; a float result, conversion or special function
is UNI where every source is; a pair is GEN. Under U the result is UNI, and with some lanes inactive it is GEN. -/
def Obligations.ShapeTags : Prop :=
  (∀ i o op s, shapeRow i = some (o, op) → o.u = false → s.warp.exec = s.wm → s.wm ≠ 0 →
    ∃ t, exec i s = .next t ∧
      match op, shapeOf s.warp o.a, shapeOf s.warp o.b with
      | .add, .uni a, .uni b => readV t.warp o.d = .uni (a + b)
      | .add, .aff b st, .uni u => readV t.warp o.d = .aff (b + u) st
      | .add, .uni u, .aff b st => readV t.warp o.d = .aff (b + u) st
      | .add, .aff b1 s1, .aff b2 s2 => readV t.warp o.d = .aff (b1 + b2) (s1 + s2)
      | .sub, .uni a, .uni b => readV t.warp o.d = .uni (a - b)
      | .sub, .aff b st, .uni u => readV t.warp o.d = .aff (b - u) st
      | .sub, .uni u, .aff b st => readV t.warp o.d = .aff (u - b) (-st)
      | .sub, .aff b1 s1, .aff b2 s2 => readV t.warp o.d = .aff (b1 - b2) (s1 - s2)
      | .mul, .uni a, .uni b => readV t.warp o.d = .uni (a * b)
      | .mul, .aff b st, .uni u => readV t.warp o.d = .aff (b * u) (st * u)
      | .mul, .uni u, .aff b st => readV t.warp o.d = .aff (b * u) (st * u)
      | _, _, _ => (readV t.warp o.d).tag = .gen)
  ∧ (∀ i o srcs g s, intRow i = some (o, srcs, g) → s.warp.exec ≠ 0 → (o.u = true → firstNonUni s.warp srcs = none) →
    (shapeRow i = none ∨ o.u = true ∨ s.warp.exec ≠ s.wm) →
    ∃ t, exec i s = .next t ∧ (readV t.warp o.d).tag = s.tagAfter o.u .gen)
  ∧ (∀ i o srcs g s, floatRow i = some (o, srcs, g) → s.warp.exec ≠ 0 → (o.u = true → firstNonUni s.warp srcs = none) →
    ∃ t, exec i s = .next t ∧ (readV t.warp o.d).tag = s.tagAfter o.u (uniTag s.warp srcs))
  ∧ (∀ (f : Ops) bank ty s, s.warp.exec ≠ 0 → (f.u = true → firstNonUni s.warp (srcsOf [f.a]) = none) → s.actHeld bank = false →
    ∃ t, exec (.act f bank ty) s = .next t ∧ (readV t.warp f.d).tag = s.tagAfter f.u (uniTag s.warp (srcsOf [f.a])))
  ∧ ∀ i o srcs b64 g s, pairRow i = some (o, srcs, b64, g) → s.warp.exec ≠ 0 →
    (o.u = true → firstNonUni s.warp srcs = none) →
    ∃ t, exec i s = .next t ∧ (readV t.warp o.d).tag = s.tagAfter o.u .gen
      ∧ (readV t.warp (o.d + 1)).tag = s.tagAfter o.u .gen

/-- R186, R187, R190: VPERM gives each lane the lane of A that B names modulo W; VSCAN the operation over the active lanes up
to it, or before it with EXCL; VARGMAX the lowest active lane whose key is greatest. -/
def Obligations.CrossLaneResults : Prop :=
  (∀ f s, s.warp.exec ≠ 0 →
    ∃ t w', exec (.vperm f) s = .next t ∧ Completes (opd f) w' s t ∧ Warp.onlyVector [f.d] s.warp w'
      ∧ s.warp.givesLanes w' s.width false f.d fun l =>
        lane32 s.warp s.width f.a ((lane32 s.warp s.width f.b l).toNat % s.width))
  ∧ (∀ f op excl s, s.warp.exec ≠ 0 →
    ∃ t w', exec (.vscan f op excl) s = .next t ∧ Completes (opd f) w' s t ∧ Warp.onlyVector [f.d] s.warp w'
      ∧ s.warp.givesLanes w' s.width false f.d fun l =>
        let x := lane32 s.warp s.width f.a
        if excl then (scanFold op s.warp ((s.warp.lanesBelow l).map x)).getD (scanId op)
        else (scanFold op s.warp ((s.warp.lanesBelow l).map x ++ [x l])).getD 0)
  ∧ ∀ f key s, s.warp.lanes s.width ≠ [] →
    ∃ t w' m, exec (.vargmax f key) s = .next t ∧ Completes (opd f) w' s t ∧ Warp.onlyScalar f.d s.warp w'
      ∧ w'.gives f.d (BitVec.ofNat 64 m) ∧ m ∈ s.warp.lanes s.width
      ∧ ∀ l ∈ s.warp.lanes s.width,
        keyRank key (lane32 s.warp s.width f.a l) ≤ keyRank key (lane32 s.warp s.width f.a m)
        ∧ (l < m → keyRank key (lane32 s.warp s.width f.a l) < keyRank key (lane32 s.warp s.width f.a m))

/-- R188, R189: VSORT and VSORTKV complete; the active lanes in order hold the stable sort of their keys, and with KV the
values move with them; every other lane keeps its value. -/
def Obligations.SortResults : Prop :=
  (∀ f key desc s, s.warp.exec ≠ 0 →
    ∃ t w' out, exec (.vsort f key desc) s = .next t ∧ Completes (opd f) w' s t ∧ Warp.onlyVector [f.d] s.warp w'
      ∧ StablySorted desc (sortInput key (opd f) s) out
      ∧ (s.warp.lanes s.width).map (fun l => (readV w' f.d).lane l) = out.map (fun x => x.2.1)
      ∧ ∀ l, l < s.width → l < 64 → s.warp.active l = false → (readV w' f.d).lane l = (readV s.warp f.d).lane l)
  ∧ ∀ f key desc s, s.warp.exec ≠ 0 →
    ∃ t w' out, exec (.vsortkv f key desc) s = .next t ∧ Completes (opd f) w' s t
      ∧ Warp.onlyVector [f.d, f.d + 1] s.warp w' ∧ StablySorted desc (sortInput key (opd f) s) out
      ∧ (s.warp.lanes s.width).map (fun l => ((readV w' f.d).lane l, (readV w' (f.d + 1)).lane l))
        = out.map (fun x => (x.2.1, x.2.2))
      ∧ ∀ l, l < s.width → l < 64 → s.warp.active l = false →
        (readV w' f.d).lane l = (readV s.warp f.d).lane l ∧ (readV w' (f.d + 1)).lane l = (readV s.warp (f.d + 1)).lane l

/-! Global memory. -/

/-- R230, R231, R233: a load whose lanes pass their checks completes; each active lane receives the bytes at its own address
extended by width, LDU's lane 0 for every lane, and LDF ends the stint; the result is GEN, under U or of LDU with every lane
active UNI (R162); memory and every other register are as they were once the warp's own reductions that must come first have
performed (R215, R217). -/
def Obligations.LoadResults : Prop :=
  ∀ i f g wd so io ends u (s : State) (key : Nat → Nat), loadRow i = some (f, g, wd, so, io, ends, u) → s.warp.exec ≠ 0 →
    (u = true → firstNonUni s.warp [(0, f.a, true), (1, f.b, false)] = none) →
    (∀ l ∈ bodyLanes s.warp s.width u,
      s.reaches (globalAddr s.warp s.width g (opd f) true l) (widthBytes wd) .read io (key l) = true
        ∧ s.linePoisoned (key l) = false) →
    let s1 := s.ordered so ((bodyLanes s.warp s.width u).map fun l => (key l, widthBytes wd))
    ∃ t w', exec i s = .next t ∧ Retires (opd f) w' ends s t ∧ t = { s1 with warps := t.warps }
      ∧ Warp.onlyVector (loadDests wd f.d) s.warp w' ∧ (∀ d ∈ loadDests wd f.d, (readV w' d).tag = s.tagAfter u .gen)
      ∧ s.warp.loaded w' s.width u wd f.d (fun l => leNat (s1.readMem (key l) (widthBytes wd)))

/-- R231: LDS loads once for the warp, extended to 64 bits; STS stores the low bytes of S(D). Both act whatever exec holds. -/
def Obligations.ScalarMemoryResults : Prop :=
  (∀ (f : Ops) g wd so (s : State) (key : Nat),
    s.reaches (globalAddr s.warp s.width g (opd f) true 0) (widthBytes wd) .read true key = true → s.linePoisoned key = false →
    let s1 := s.ordered so [(key, widthBytes wd)]
    ∃ t w', exec (.lds f g wd so) s = .next t ∧ Retires (opd f) w' f.s s t ∧ t = { s1 with warps := t.warps }
      ∧ Warp.onlyScalar f.d s.warp w' ∧ w'.gives f.d (extend 64 wd (leNat (s1.readMem key (widthBytes wd)))))
  ∧ ∀ (f : Ops) g wd so (s : State) (key : Nat),
    s.reaches (globalAddr s.warp s.width g (opd f) true 0) (widthBytes wd) .write true key = true →
    let s1 := s.ordered so [(key, widthBytes wd)]
    ∃ t, exec (.sts f g wd so) s = .next t ∧ Retires (opd f) s.warp f.s s t
      ∧ t = { s1 with warps := t.warps, mem := t.mem, linePoison := t.linePoison }
      ∧ s1.stored t [0] (fun _ => key) (widthBytes wd) fun _ => readS s.warp f.d

/-- R231, R232: a store whose lanes pass their checks completes; the bytes stored at each lane's address are the low bytes of
its lane of D, of several lanes on one byte those of the highest; no register and no other byte of memory changes. -/
def Obligations.StoreResults : Prop :=
  ∀ (f : Ops) g wd so (s : State) (key : Nat → Nat), s.warp.exec ≠ 0 →
    (f.u = true → firstNonUni s.warp [(0, f.a, true), (1, f.b, false), (3, .vec f.d .ident, wd = .w64)] = none) →
    (∀ l ∈ bodyLanes s.warp s.width f.u,
      s.reaches (globalAddr s.warp s.width g (opd f) true l) (widthBytes wd) .write true (key l) = true) →
    let s1 := s.ordered so ((bodyLanes s.warp s.width f.u).map fun l => (key l, widthBytes wd))
    ∃ t, exec (.st f g wd so) s = .next t ∧ Retires (opd f) s.warp f.s s t
      ∧ t = { s1 with warps := t.warps, mem := t.mem, linePoison := t.linePoison }
      ∧ s1.stored t (bodyLanes s.warp s.width f.u) key (widthBytes wd) (storeData s.warp s.width wd f.d)

/-- R235, R111: ATOM modifies each lane's word in ascending lane order and gives D the word that the lane found; every other
byte of memory and every other register is as before. -/
def Obligations.AtomicResults : Prop :=
  ∀ (f : Ops) g op w64 so (s : State) (key : Nat → Nat), s.warp.exec ≠ 0 →
    (f.u = true → firstNonUni s.warp ([(0, f.a, true), (1, f.b, false), (2, f.c, w64)]
      ++ if op = .cas then [(3, .vec f.d .ident, w64)] else []) = none) →
    let lanes := bodyLanes s.warp s.width f.u
    let n := if w64 then 8 else 4
    (∀ l ∈ lanes, s.reaches (globalAddr s.warp s.width g (opd f) false l) n .rw false (key l) = true
      ∧ s.linePoisoned (key l) = false) →
    wordsApart lanes key n →
    let s1 := s.ordered so (lanes.map fun l => (key l, n))
    let data := fun l => (atomData s.warp s.width w64 f.c l, atomData s.warp s.width w64 (.vec f.d .ident) l)
    ∃ t w', exec (.atom f g op w64 so) s = .next t ∧ Retires (opd f) w' f.s s t
      ∧ t = { s1 with warps := t.warps, mem := t.mem }
      ∧ Warp.onlyVector (loadDests (if w64 then .w64 else .w32) f.d) s.warp w'
      ∧ s.warp.loaded w' s.width f.u (if w64 then .w64 else .w32) f.d (fun l =>
          atomWord op w64 (leNat (s1.readMem (key l) n)) ((lanes.filter fun j => key j = key l ∧ j < l).map data))
      ∧ (∀ l ∈ lanes, t.readMem (key l) n =
          leBytes n (atomWord op w64 (leNat (s1.readMem (key l) n)) ((lanes.filter fun j => key j = key l).map data)))
      ∧ ∀ a, (∀ l ∈ lanes, ¬(key l ≤ a ∧ a < key l + n)) → t.readMem a 1 = s1.readMem a 1

/-- R236, R237, R234: RED completes with nothing but its reductions on their way, one for each word it names, with that word's
lanes in ascending order; a reduction that performs modifies its word and no other byte; PREF has no effect. R237 says that a
FENCE orders; that every FENCE but an acquiring one, at every scope, completes with no reduction of the warp on its way is the
model's choice (log 5). -/
def Obligations.ReductionResults : Prop :=
  (∀ (f : Ops) g op w64 so (s : State) (key : Nat → Nat), s.warp.exec ≠ 0 →
    (f.u = true → firstNonUni s.warp [(0, f.a, true), (1, f.b, false), (2, f.c, w64)] = none) →
    (∀ l ∈ bodyLanes s.warp s.width f.u,
      s.reaches (globalAddr s.warp s.width g (opd f) false l) (if w64 then 8 else 4) .rw false (key l) = true) →
    let s1 := s.order so.order
    ∃ t new, exec (.red f g op w64 so) s = .next t ∧ Retires (opd f) s.warp f.s s t
      ∧ t = { s1 with warps := t.warps, reds := s1.reds ++ new } ∧ (new.map Red.addr).Nodup
      ∧ ∀ r, r ∈ new ↔ (∃ l ∈ bodyLanes s.warp s.width f.u, key l = r.addr) ∧
        r = ⟨wgOf s.cur, warpNo s.cur, r.addr, op, w64,
          ((bodyLanes s.warp s.width f.u).filter fun l => key l = r.addr).map (atomData s.warp s.width w64 f.c)⟩)
  ∧ (∀ (s : State) i r, s.reds[i]? = some r → s.linePoisoned r.addr = false →
      (∀ q ∈ s.reds.take i, ¬(q.wg = r.wg ∧ q.warp = r.warp ∧ q.addr < r.addr + redBytes r ∧ r.addr < q.addr + redBytes q)) →
      ∃ t, exec (.redPerform i) s = .next t ∧ t = { s with mem := t.mem, reds := s.reds.eraseIdx i }
        ∧ t.readMem r.addr (redBytes r) =
          leBytes (redBytes r) (atomWord r.op r.w64 (leNat (s.readMem r.addr (redBytes r))) (r.xs.map fun x => (x, 0)))
        ∧ ∀ a, ¬(r.addr ≤ a ∧ a < r.addr + redBytes r) → t.readMem a 1 = s.readMem a 1)
  ∧ (∀ (f : Ops) kind scope (s : State),
      let s1 := if kind = .acq then s else s.flushReds s.cur
      ∃ t, exec (.fence f kind scope) s = .next t ∧ Retires (opd f) s.warp f.s s t ∧ t = { s1 with warps := t.warps }
        ∧ (kind ≠ .acq → ∀ r ∈ t.reds, 32 * r.wg + r.warp ≠ s.cur))
  ∧ ∀ (f : Ops) g s, ∃ t, exec (.pref f g) s = .next t ∧ Completes (opd f) s.warp s t

/-- R38, R231, R233, R236: an access of which some lane fails a check takes the exception of its lowest failing lane, with
that lane's cause and address; the faulting lanes are those whose own failing check gives that cause. R232, R236: a load or an
ATOM whose lanes pass their checks and of which some lane's line is poisoned takes 0x38 the same way; ST and RED do not. LDS
and STS act once, with the lanes of exec. That under U, and of LDU, the lanes are exec is the model's choice (log 15). -/
def Obligations.AccessFaults : Prop :=
  (∀ i f addr n k io u srcs (s : State), accessRow s.warp s.width i = some (f, addr, n, k, io, u, srcs) →
    s.warp.exec ≠ 0 → (u = true → firstNonUni s.warp srcs = none) →
    let lanes := bodyLanes s.warp s.width u
    (∀ l c, (∀ j ∈ lanes, s.xlateW (addr j) n k ≠ .wait) → l ∈ lanes → s.accessCause (addr l) n k io = some c →
      (∀ j ∈ lanes, j < l → s.accessCause (addr j) n k io = none) →
      ∃ m, exec i s = .next (s.raise (BitVec.ofNat 8 c) m (addr l))
        ∧ maskOfFault s.warp u lanes (fun j => decide (s.accessCause (addr j) n k io = some c)) m)
    ∧ ∀ l (key : Nat → Nat), (match i with | .st .. | .red .. => False | _ => True) →
      (∀ j ∈ lanes, s.reaches (addr j) n k io (key j) = true) → l ∈ lanes → s.linePoisoned (key l) = true →
      (∀ j ∈ lanes, j < l → s.linePoisoned (key j) = false) →
      ∃ m, exec i s = .next (s.raise 0x38 m (addr l)) ∧ maskOfFault s.warp u lanes (fun j => s.linePoisoned (key j)) m)
  ∧ ∀ (f : Ops) g wd so (s : State),
    let a := globalAddr s.warp s.width g (opd f) true 0
    (∀ c, s.accessCause a (widthBytes wd) .read true = some c →
      exec (.lds f g wd so) s = .next (s.raiseW (BitVec.ofNat 8 c) a))
    ∧ (∀ key, s.reaches a (widthBytes wd) .read true key = true → s.linePoisoned key = true →
      exec (.lds f g wd so) s = .next (s.raiseW 0x38 a))
    ∧ ∀ c, s.accessCause a (widthBytes wd) .write true = some c →
      exec (.sts f g wd so) s = .next (s.raiseW (BitVec.ofNat 8 c) a)

/-! Scratchpad. -/

/-- R108, R109, R110: LDL gives each active lane the bytes at its local offset, extended by width; STL stores each lane's
low bytes, of several lanes on one byte those of the highest; nothing else changes. The words that LDL reads have been
verified first (R96). A per-lane access of the scratchpad of which a lane is misaligned, 0x0A, or at or beyond the allocation,
0x0C, takes the exception of its lowest failing lane; one that returns what it read takes 0x38 where a lane's words are poisoned
(R97). That the faulting lanes under U are exec is the model's choice (log 15), and so is that BNK.XMS.ROW's are every active lane
(log 29). -/
def Obligations.LocalAccessResults : Prop :=
  (∀ (f : Ops) wd (s : State), s.warp.exec ≠ 0 → (f.u = true → firstNonUni s.warp [(0, f.a, false)] = none) →
    let lanes := bodyLanes s.warp s.width f.u
    let addr := localAddr s.warp s.width (opd f) true
    let s1 := verifyLanes lanes addr (widthBytes wd) s
    (∀ l ∈ lanes, localCause s.wg (addr l) (widthBytes wd) = none
      ∧ s1.locPoisoned s1.wg (addr l).toNat (widthBytes wd) = false) →
    ∃ t w', exec (.ldl f wd) s = .next t ∧ Retires (opd f) w' f.s s1 t ∧ t = { s1 with warps := t.warps }
      ∧ Warp.onlyVector (loadDests wd f.d) s1.warp w'
      ∧ s1.warp.loaded w' s.width f.u wd f.d
        (fun l => leNat (s1.padRead s.wg.core (s.wg.base + (addr l).toNat) (widthBytes wd))))
  ∧ (∀ (f : Ops) wd (s : State), s.warp.exec ≠ 0 →
    (f.u = true → firstNonUni s.warp [(0, f.a, false), (1, f.b, wd = .w64)] = none) →
    let lanes := bodyLanes s.warp s.width f.u
    let addr := localAddr s.warp s.width (opd f) true
    (∀ l ∈ lanes, localCause s.wg (addr l) (widthBytes wd) = none) →
    ∃ t, exec (.stl f wd) s = .next t ∧ Retires (opd f) s.warp f.s s t
      ∧ t = { s with warps := t.warps, cores := t.cores } ∧ s.otherCores s.wg.core t
      ∧ s.padStored t s.wg.core lanes (fun l => s.wg.base + (addr l).toNat) (widthBytes wd)
        fun l => if wd = .w64 then lane64 s.warp s.width f.b l else (lane32 s.warp s.width f.b l).setWidth 64)
  ∧ ∀ i o srcs addr n traps (s : State), localRow s.warp s.width i = some (o, srcs, addr, n, traps) → s.warp.exec ≠ 0 →
    (o.u = true → firstNonUni s.warp srcs = none) →
    let lanes := bodyLanes s.warp s.width o.u
    let s1 := verifyLanes lanes addr n s
    let cause := fun l => localCause s.wg (addr l) n
    let bad := fun l => s1.locPoisoned s1.wg (addr l).toNat n
    (∀ l c, l ∈ lanes → cause l = some c → (∀ j ∈ lanes, j < l → cause j = none) →
      ∃ m, exec i s = .next (s.raise (BitVec.ofNat 8 c) m (addr l))
        ∧ maskOfFault s.warp o.u lanes (fun j => decide (cause j = some c)) m)
    ∧ ∀ l, traps = true → (∀ j ∈ lanes, cause j = none) → l ∈ lanes → bad l = true → (∀ j ∈ lanes, j < l → bad j = false) →
      ∃ m, exec i s = .next (s1.raise 0x38 m (addr l)) ∧ maskOfFault s1.warp o.u lanes bad m

/-- R99, R111, R112, R113: ATOML and the bank commands modify each lane's word in ascending lane order, each lane seeing the
word that the lower ones left; ATOML, BNK.CAS and BNK.XCHG give D the word that the lane found; a poisoned word is left as
it is; no other byte changes. -/
def Obligations.LocalModifyResults : Prop :=
  ∀ i o srcs addr ord ret new (s : State), modifyRow s.warp s.width i = some (o, srcs, addr, ord, ret, new) →
    s.warp.exec ≠ 0 → (o.u = true → firstNonUni s.warp srcs = none) →
    let lanes := bodyLanes s.warp s.width o.u
    (∀ l ∈ lanes, localCause s.wg (addr l) 4 = none) →
    let s1 := verifyLanes lanes addr 4 s
    (ret = true → ∀ l ∈ lanes, s1.locPoisoned s1.wg (addr l).toNat 4 = false) →
    let s2 := s1.order ord
    let c := s.wg.core
    let p := fun l => s.wg.base + (addr l).toNat
    let good := lanes.filter fun l => !s2.locPoisoned s2.wg (addr l).toNat 4
    ∃ t w', exec i s = .next t ∧ Retires o w' o.s s2 t ∧ t = { s2 with warps := t.warps, cores := t.cores } ∧ s2.onlyPad c t
      ∧ (∀ q, (∀ l ∈ good, ¬(p l ≤ q ∧ q < p l + 4)) → t.padRead c q 1 = s2.padRead c q 1)
      ∧ (∀ l ∈ good, t.padWord c (p l) = modifyWord new (lanes.filter fun j => addr j = addr l) (s2.padWord c (p l)))
      ∧ if ret then
          Warp.onlyVector [o.d] s2.warp w' ∧ s2.warp.givesLanes w' s.width o.u o.d
            (fun l => modifyWord new (lanes.filter fun j => addr j = addr l ∧ j < l) (s2.padWord c (p l)))
        else w' = s2.warp

/-- R101, R113: BNK.XMS replaces each lane's pair (m, s) by its running maximum and scaled sum with the lane's x, lanes of
one pair in ascending order; with ROW one update of the pair at A takes every active lane's x in ascending order. No other
byte changes. The pairs hold no poison and the core no error that a read would meet. -/
def Obligations.MaximumAndSum : Prop :=
  ∀ (f : Ops) row (s : State), s.warp.exec ≠ 0 →
    (f.u = true → firstNonUni s.warp [(0, f.a, false), (1, f.b, false)] = none) →
    let lanes := bodyLanes s.warp s.width f.u
    let addr := if row then fun _ => locVal s.warp s.width f.a 0 else localAddr s.warp s.width (opd f) true
    let x := fun l => (lane32 s.warp s.width f.b l).toNat
    lanes ≠ [] → s.core.latent = [] →
    (∀ l ∈ lanes, localCause s.wg (addr l) 8 = none ∧ s.locPoisoned s.wg (addr l).toNat 8 = false) →
    let c := s.wg.core
    let p := fun l => s.wg.base + (addr l).toNat
    let one := fun (ms : Word × Word) (xs : List Nat) =>
      let r := xms xs ms.1.toNat ms.2.toNat
      ((BitVec.ofNat 32 r.1, BitVec.ofNat 32 r.2) : Word × Word)
    ∃ t, exec (.bnkXms f row) s = .next t ∧ Retires (opd f) s.warp f.s s t
      ∧ t = { s with warps := t.warps, cores := t.cores } ∧ s.onlyPad c t
      ∧ (∀ q, (∀ l ∈ lanes, ¬(p l ≤ q ∧ q < p l + 8)) → t.padRead c q 1 = s.padRead c q 1)
      ∧ ∀ l ∈ lanes, (t.padWord c (p l), t.padWord c (p l + 4)) =
          if row then one (s.padWord c (p l), s.padWord c (p l + 4)) (lanes.map x)
          else ((lanes.filter fun j => addr j = addr l).map x).foldl (fun ms v => one ms [v])
            (s.padWord c (p l), s.padWord c (p l + 4))

/-- R114 to R116, R62: BULK and BCPY whose checks pass complete at issue: the command, with the operands' values of that
moment, enters the core's bank units behind the others, after the warp's own reductions have performed (R218). R115, R116:
else the first failing check takes its exception: 0x12 for the object; of a SHAPE form 0x14 for the record's alignment, 0x0C for a
record outside the allocation and 0x38 for a poisoned one; 0x0C for a range outside the allocation or, of BCPY, ranges that
overlap; 0x14 for a length, a field of the record, an alignment or an overlap of BULK's elements with its pairs. The model chose:
that an empty range which starts beyond the allocation is inside it, that an object on a SHAPE form's own ranges is found once
the record has been read, and that a length which is no multiple of 4 counts by the elements that fit whole (log 16); the address of
a range that begins below offset 0, that of a misaligned pair base, that poison of the record comes before its fields, and that
BULK.XMS takes any scalar or IMM10 in field C and ignores it (log 29). -/
def Obligations.BankCommandIssue : Prop :=
  (∀ (f : Ops) op shape bf (obj16 : BitVec 16) (d : Shape3) (s : State), s.warp.exec ≠ 0 →
    (f.u = true → firstNonUni s.warp [(0, f.a, false), (1, f.b, false)] = none) →
    let g := s.wg
    let obj := 16 * obj16.toNat
    let base := (locVal s.warp s.width f.a 0).toNat
    let b := (locVal s.warp s.width f.b 0).toNat
    let pair := if op = .xms then some (readS s.warp f.d).toNat else none
    (if shape then
      objectOk g obj [] = true ∧ b % 16 = 0 ∧ b + 16 ≤ g.alloc ∧ s.core.latent = [] ∧ s.locPoisoned g b 16 = false
        ∧ shapeRecord base (s.padRead g.core (g.base + b) 16) = (d, true)
    else b % 4 = 0 ∧ 4 ≤ b ∧ b ≤ 2 ^ 20 ∧ d = ⟨base, b / 4, 1, 1, 0, 0⟩) →
    bulkFault g obj d none pair = none →
    let s1 := s.flushReds s.cur
    ∃ t, exec (.bulk f op shape bf obj16) s = .next t ∧ Retires (opd f) s.warp f.s s t
      ∧ t = { s1 with warps := t.warps, cores := t.cores, nextCmd := s.nextCmd + 1 } ∧ s1.otherCores g.core t
      ∧ t.coreAt g.core = { s1.coreAt g.core with bank := (s1.coreAt g.core).bank ++
          [.bulk s.nextCmd (wgOf s.cur) (warpNo s.cur) op bf (lane32 s.warp s.width f.c 0) ((readS s.warp f.d).setWidth 32)
            d.base d.n0 d.n1 d.n2 d.t1 d.t2 (pair.getD 0) obj] })
  ∧ (∀ (f : Ops) op bf (obj16 : BitVec 16) (s : State), s.warp.exec ≠ 0 →
    (f.u = true → firstNonUni s.warp [(0, f.a, false), (1, f.b, false)] = none) →
    let g := s.wg
    let obj := 16 * obj16.toNat
    let base := (locVal s.warp s.width f.a 0).toNat
    let b := (locVal s.warp s.width f.b 0).toNat
    let n := 4 * (b / 4)
    let pair := (readS s.warp f.d).toNat
    let faults := fun (c : Byte) (x : Nat) => exec (.bulk f op false bf obj16) s = .next (s.raiseW c (BitVec.ofNat 64 x))
    if g.alloc < obj + 16 ∨ overlaps obj 16 base n = true ∨ op = .xms ∧ overlaps obj 16 pair 8 = true then faults 0x12 obj
    else if 2 ^ 32 ≤ base ∨ n ≠ 0 ∧ g.alloc < base + n then faults 0x0C (max base g.alloc)
    else if op = .xms ∧ (2 ^ 32 ≤ pair ∨ g.alloc < pair + 8) then faults 0x0C (max pair g.alloc)
    else if b % 4 ≠ 0 ∨ b < 4 ∨ 2 ^ 20 < b ∨ base % 4 ≠ 0 then faults 0x14 base
    else if op = .xms ∧ pair % 8 ≠ 0 then faults 0x14 pair
    else op = .xms → overlaps base n pair 8 = true → faults 0x14 (max base pair))
  ∧ (∀ (f : Ops) op bf (obj16 : BitVec 16) (s : State), s.warp.exec ≠ 0 → s.core.latent = [] →
    (f.u = true → firstNonUni s.warp [(0, f.a, false), (1, f.b, false)] = none) →
    let g := s.wg
    let obj := 16 * obj16.toNat
    let base := (locVal s.warp s.width f.a 0).toNat
    let b := (locVal s.warp s.width f.b 0).toNat
    let r := shapeRecord base (s.padRead g.core (g.base + b) 16)
    let d := r.1
    let lo := d.lo.toNat
    let n := (d.hi - max 0 d.lo).toNat
    let pair := (readS s.warp f.d).toNat
    let m := 8 * d.n1 * d.n2
    let faults := fun (c : Byte) (x : Nat) => exec (.bulk f op true bf obj16) s = .next (s.raiseW c (BitVec.ofNat 64 x))
    if g.alloc < obj + 16 then faults 0x12 obj
    else if b % 16 ≠ 0 then faults 0x14 b
    else if g.alloc < b + 16 then faults 0x0C (max b g.alloc)
    else if s.locPoisoned g b 16 = true then faults 0x38 b
    else if overlaps obj 16 lo n = true ∨ op = .xms ∧ overlaps obj 16 pair m = true then faults 0x12 obj
    else if d.lo < 0 then faults 0x0C (BitVec.ofInt 64 d.lo).toNat
    else if 2 ^ 32 ≤ lo ∨ n ≠ 0 ∧ g.alloc < lo + n then faults 0x0C (max lo g.alloc)
    else if op = .xms ∧ (2 ^ 32 ≤ pair ∨ m ≠ 0 ∧ g.alloc < pair + m) then faults 0x0C (max pair g.alloc)
    else if r.2 = false then faults 0x14 b
    else if base % 4 ≠ 0 then faults 0x14 base
    else if op = .xms ∧ pair % 8 ≠ 0 then faults 0x14 pair
    else op = .xms → overlaps lo n pair m = true → faults 0x14 (max lo pair))
  ∧ (∀ (f : Ops) rot (obj16 : BitVec 16) (s : State), s.warp.exec ≠ 0 →
    (f.u = true → firstNonUni s.warp [(0, f.a, false), (1, f.b, false), (2, f.c, false)] = none) →
    let g := s.wg
    let obj := 16 * obj16.toNat
    let d := (locVal s.warp s.width f.a 0).toNat
    let a := (locVal s.warp s.width f.b 0).toNat
    let n := (locVal s.warp s.width f.c 0).toNat
    let faults := fun (c : Byte) (x : Nat) => exec (.bcpy f rot obj16) s = .next (s.raiseW c (BitVec.ofNat 64 x))
    if g.alloc < obj + 16 ∨ overlaps obj 16 d n = true ∨ overlaps obj 16 a n = true then faults 0x12 obj
    else if 2 ^ 32 ≤ d ∨ n ≠ 0 ∧ g.alloc < d + n then faults 0x0C (max d g.alloc)
    else if 2 ^ 32 ≤ a ∨ n ≠ 0 ∧ g.alloc < a + n then faults 0x0C (max a g.alloc)
    else if overlaps d n a n = true then faults 0x0C (max d a)
    else d % 64 ≠ 0 ∨ a % 64 ≠ 0 ∨ d % 1024 ≠ a % 1024 ∨ n = 0 ∨ n % 64 ≠ 0 → faults 0x14 d)
  ∧ ∀ (f : Ops) rot (obj16 : BitVec 16) (s : State), s.warp.exec ≠ 0 →
    (f.u = true → firstNonUni s.warp [(0, f.a, false), (1, f.b, false), (2, f.c, false)] = none) →
    let g := s.wg
    let obj := 16 * obj16.toNat
    let d := (locVal s.warp s.width f.a 0).toNat
    let a := (locVal s.warp s.width f.b 0).toNat
    let n := (locVal s.warp s.width f.c 0).toNat
    n ≠ 0 → n % 64 = 0 → d % 64 = 0 → a % 64 = 0 → d % 1024 = a % 1024 → d + n ≤ g.alloc → a + n ≤ g.alloc →
    (d + n ≤ a ∨ a + n ≤ d) → obj + 16 ≤ g.alloc → (obj + 16 ≤ d ∨ d + n ≤ obj) → (obj + 16 ≤ a ∨ a + n ≤ obj) →
    let s1 := s.flushReds s.cur
    ∃ t, exec (.bcpy f rot obj16) s = .next t ∧ Retires (opd f) s.warp f.s s t
      ∧ t = { s1 with warps := t.warps, cores := t.cores, nextCmd := s.nextCmd + 1 } ∧ s1.otherCores g.core t
      ∧ t.coreAt g.core = { s1.coreAt g.core with bank := (s1.coreAt g.core).bank ++
          [.bcpy s.nextCmd (wgOf s.cur) (warpNo s.cur) d a n rot.toNat obj] }

/-- R102, R104, R62, R68: a BULK that no earlier command holds replaces each element's word by the operation's result, once
for each time the shape names it; BULK.XMS replaces each row's pair (m, s) by its running maximum and scaled sum with the row's
elements in ascending order (R101, R115). Poisoned words are left as they are, and the arrival then has POISON (R97). A BCPY
writes each word of its source, which holds no poison, to its place, rotated within its 64 bytes. Each leaves the bank units and
arrives with its count, and no other byte changes. The core holds no latent error. -/
def Obligations.BankCommandCompletion : Prop :=
  (∀ (s : State) core i id wg warp op bf a b (d : Shape3) pair obj,
    let cmd : BankCmd := .bulk id wg warp op bf a b d.base d.n0 d.n1 d.n2 d.t1 d.t2 pair obj
    (s.coreAt core).bank[i]? = some cmd → ((s.coreAt core).bank.take i).all (fun c => !c.holds cmd) = true →
    (s.wgAt wg).core = core → (s.coreAt core).latent = [] →
    (∀ e ∈ d.elems, e % 4 = 0 ∧ (e + 4 ≤ obj ∨ obj + 16 ≤ e)) →
    (op = .xms → (pair + 8 * d.n1 * d.n2 ≤ obj ∨ obj + 16 ≤ pair)
      ∧ ∀ e ∈ d.elems, e + 4 ≤ pair ∨ pair + 8 * d.n1 * d.n2 ≤ e) →
    let p := (s.wgAt wg).base
    let bad := fun off n => s.locPoisoned (s.wgAt wg) off n
    let pairs := if op = .xms then (List.range d.n2).flatMap fun i2 => (List.range d.n1).map fun i1 => (i1, i2) else []
    let pairAt := fun (x : Nat × Nat) => pair + 8 * (x.1 + d.n1 * x.2)
    let row := fun (x : Nat × Nat) => (List.range d.n0).map fun i0 => d.at i0 x.1 x.2
    ∃ t, exec (.bulkComplete core i) s = .next t ∧ t = { s with cores := t.cores } ∧ s.otherCores core t
      ∧ t.coreAt core = { s.coreAt core with pad := (t.coreAt core).pad, bank := (s.coreAt core).bank.eraseIdx i }
      ∧ (op ≠ .xms → ∀ e ∈ d.elems, t.padWord core (p + e) =
          if bad e 4 then s.padWord core (p + e) else (fun w => bulkWord op bf w a b)^[d.elems.count e] (s.padWord core (p + e)))
      ∧ (∀ x ∈ pairs,
          let q := p + pairAt x
          let r := xms (((row x).filter fun e => !bad e 4).map fun e => (s.padWord core (p + e)).toNat)
            (s.padWord core q).toNat (s.padWord core (q + 4)).toNat
          (t.padWord core q, t.padWord core (q + 4)) =
            if bad (pairAt x) 8 then (s.padWord core q, s.padWord core (q + 4)) else (BitVec.ofNat 32 r.1, BitVec.ofNat 32 r.2))
      ∧ leNat (t.padRead core (p + obj) 8) =
          arriveWord (leNat (s.padRead core (p + obj) 8)) (leNat (s.padRead core (p + obj + 8) 8)) (4 * d.n0 * d.n1 * d.n2)
            (if d.elems.any (fun e => bad e 4) || pairs.any (fun x => bad (pairAt x) 8) then 4 else 0) % 2 ^ 64
      ∧ ∀ q, (op ≠ .xms → ∀ e ∈ d.elems, ¬(p + e ≤ q ∧ q < p + e + 4)) →
          (∀ x ∈ pairs, ¬(p + pairAt x ≤ q ∧ q < p + pairAt x + 8)) → ¬(p + obj ≤ q ∧ q < p + obj + 8) →
          t.padRead core q 1 = s.padRead core q 1)
  ∧ ∀ (s : State) core i id wg warp dst src len rot obj,
    (s.coreAt core).bank[i]? = some (.bcpy id wg warp dst src len rot obj) →
    ((s.coreAt core).bank.take i).all (fun c => !c.holds (.bcpy id wg warp dst src len rot obj)) = true →
    (s.wgAt wg).core = core → (s.coreAt core).latent = [] → (s.coreAt core).poison = [] → len % 64 = 0 →
    (dst + len ≤ src ∨ src + len ≤ dst) → (obj + 16 ≤ dst ∨ dst + len ≤ obj) →
    let p := (s.wgAt wg).base
    ∃ t, exec (.bcpyComplete core i) s = .next t ∧ t = { s with cores := t.cores } ∧ s.otherCores core t
      ∧ t.coreAt core = { s.coreAt core with pad := (t.coreAt core).pad, bank := (s.coreAt core).bank.eraseIdx i }
      ∧ (∀ k, k < len / 16 → t.padRead core (p + dst + 64 * (k / 4) + 16 * ((k % 4 + rot) % 4)) 16
          = s.padRead core (p + src + 16 * k) 16)
      ∧ leNat (t.padRead core (p + obj) 8) =
          arriveWord (leNat (s.padRead core (p + obj) 8)) (leNat (s.padRead core (p + obj + 8) 8)) len 0 % 2 ^ 64
      ∧ ∀ q, ¬(p + dst ≤ q ∧ q < p + dst + len) → ¬(p + obj ≤ q ∧ q < p + obj + 8) →
          t.padRead core q 1 = s.padRead core q 1

/-- R117: TAGL, TAGI and TAGD act lane by lane on the workgroup's tag partition, each lane seeing the lower ones' effects; and
what one lane does to a partition. -/
def Obligations.TagResults : Prop :=
  (∀ i f two lane (s : State), tagRow i = some (f, two, lane) → s.warp.exec ≠ 0 →
    (f.u = true → firstNonUni s.warp ([(0, f.a, false)] ++ if two then [(1, f.b, false)] else []) = none) →
    let lanes := bodyLanes s.warp s.width f.u
    let one := fun l t => lane s.wg.fp.tags (lane32 s.warp s.width f.a l) (lane32 s.warp s.width f.b l) t
    let after := fun (ls : List Nat) => ls.foldl (fun t l => (one l t).2) s.wg.tags
    ∃ t w', exec i s = .next t ∧ Retires (opd f) w' f.s s t ∧ t = { s with warps := t.warps, wgs := t.wgs }
      ∧ s.otherWgs (wgOf s.cur) t ∧ t.wgAt (wgOf s.cur) = { s.wg with tags := after lanes }
      ∧ Warp.onlyVector [f.d] s.warp w'
      ∧ s.warp.givesLanes w' s.width f.u f.d fun l => (one l (after (lanes.filter (· < l)))).1)
  ∧ ∀ cap k v (t : List TagEntry),
    taglLane cap k v t = (((tagFind k t).map (·.setWidth 32)).getD 0xFFFFFFFF, t)
    ∧ (k = 0xFFFFFFFF ∨ 2 ^ 20 ≤ v.toNat → tagiLane cap k v t = (3, t))
    ∧ (k ≠ 0xFFFFFFFF → v.toNat < 2 ^ 20 → tagFind k t = none → cap ≤ t.length → tagiLane cap k v t = (2, t))
    ∧ (k ≠ 0xFFFFFFFF → v.toNat < 2 ^ 20 → (tagFind k t).isSome ∨ t.length < cap →
        (tagiLane cap k v t).1 = (if (tagFind k t).isSome then 1 else 0)
        ∧ ∀ j, tagFind j (tagiLane cap k v t).2 = if j = k then some (v.setWidth 20) else tagFind j t)
    ∧ (tagdLane cap k v t).1 = ((tagFind k t).map (·.setWidth 32)).getD 0xFFFFFFFF
    ∧ ∀ j, tagFind j (tagdLane cap k v t).2 = if j = k then none else tagFind j t

/-- R59, R182 to R184: ACT gives each active lane the bank's result; ACTLD whose checks pass waits for the ACTs on the bank that
other warps of its core had dispatched when it came to wait, loads the bank with the record's header and segments, and meanwhile
the ACTs dispatched later wait for it, in flight as it is; it else takes the exception of its first failing check with the offset as the address: 0x0A for the
alignment, 0x0C for a record that is not wholly inside the allocation, 0x14 for a header field; 0x38 for a poisoned record (R97), before its
fields, which is the model's choice (log 29). BFPK
gives each active lane its code in its block. That at 16 lanes a uniform BFPK has both registers of its pair as sources is the
model's choice (log 15), and so are the numbers that order ACTs and ACTLDs (log 31), and that FTZ flushes an f16 half of ACT before it is
widened (log 13). -/
def Obligations.TableAndBlockResults : Prop :=
  (∀ (f : Ops) bank ty (s : State), s.warp.exec ≠ 0 → (f.u = true → firstNonUni s.warp [(0, f.a, false)] = none) →
    (s.actHeld bank = true → exec (.act f bank ty) s = .next (s.stallOn .act)) ∧ (s.actHeld bank = false →
    ∃ t w', exec (.act f bank ty) s = .next t ∧ Completes (opd f) w' s t ∧ Warp.onlyVector [f.d] s.warp w'
      ∧ s.warp.givesLanes w' s.width f.u f.d fun l => elems ty (fun m x _ _ =>
          m.out s.warp.rm s.warp.ftz (sepiaEval (s.sepia bank) s.warp.rm (m.inp s.warp.ftz x))) (lane32 s.warp s.width f.a l) 0 0))
  ∧ (∀ (f : Ops) bank (s : State), s.warp.exec ≠ 0 →
    let g := s.wg
    let off := (locVal s.warp s.width f.a 0).toNat
    let h := s.padRead g.core (g.base + off) 32
    let n := leNat ((h.drop 16).take 2)
    off % 16 = 0 → off + 32 + 8 * n ≤ g.alloc → s.core.latent = [] → s.locPoisoned g off (32 + 8 * n) = false →
    sepiaOk (leNat (h.take 4)) (leNat ((h.drop 4).take 4)) n (h.drop 18) = true →
    let v := sepiaOf h (s.padRead g.core (g.base + off + 32) (8 * n)) n
    let m := s.actldNo bank
    (s.actsInFlight bank m = true → ∃ t, exec (.actld f bank) s = .next t
      ∧ t = { s with warps := t.warps, nextCmd := max s.nextCmd (m + 1) }
      ∧ s.nowAt t s.cur { s.warp with stall := some (.sepia bank m), fetched := s.iw })
    ∧ (s.actsInFlight bank m = false → ∃ t, exec (.actld f bank) s = .next t ∧ Retires (opd f) s.warp f.s s t ∧ t = { s with warps := t.warps, cores := t.cores }
      ∧ s.otherCores g.core t
      ∧ t.coreAt g.core = if bank then { s.coreAt g.core with sepia1 := v } else { s.coreAt g.core with sepia0 := v }))
  ∧ (∀ (s : State) bank, (s.actHeld bank = true ↔ ∃ k m, k ∈ s.residentWarps s.wg.core ∧ k ≠ s.cur
        ∧ (s.warpAt k).stall = some (.sepia bank m) ∧ m < s.actNo)
      ∧ ∀ n, s.actsInFlight bank n = true ↔ ∃ k p, k ∈ s.residentWarps s.wg.core ∧ k ≠ s.cur
        ∧ (∃ e ∈ (s.warpAt k).rob, e.sepia = some (.act bank p)) ∧ p ≤ n)
  ∧ (∀ (f : Ops) bank (s : State), s.warp.exec ≠ 0 → s.core.latent = [] →
    let g := s.wg
    let off := (locVal s.warp s.width f.a 0).toNat
    let field := fun i n => leNat (s.padRead g.core (g.base + off + i) n)
    let faults := fun c : Byte => exec (.actld f bank) s = .next (s.raiseW c (BitVec.ofNat 64 off))
    if off % 16 ≠ 0 then faults 0x0A
    else if g.alloc < off + 32 then faults 0x0C
    else if s.locPoisoned g off 32 = true then faults 0x38
    else if g.alloc < off + 32 + 8 * field 16 2 then faults 0x0C
    else
      let legal := (∃ neg v, F32.datum false (field 0 4) = .num neg v) ∧ (∃ v, 0 < v ∧ F32.datum false (field 4 4) = .num false v)
        ∧ 1 ≤ field 16 2 ∧ field 16 2 ≤ 1024 ∧ ∀ i, 18 ≤ i → i < 32 → field i 1 = 0
      (¬legal → faults 0x14) ∧ (legal → s.locPoisoned g (off + 32) (8 * field 16 2) = true → faults 0x38))
  ∧ ∀ (f : Ops) m (s : State), s.warp.exec ≠ 0 → s.width = 16 ∨ s.width = 32 ∨ s.width = 64 →
    (f.u = true → firstNonUni s.warp [(0, f.a, s.width = 16)] = none) →
    let code := fun (xs : List (Option Word)) j => (bfpkBlock (mcodeM m) s.warp.ftz xs).getD j 0
    let w := s.warp
    ∃ t w', exec (.bfpk f m) s = .next t ∧ Completes (opd f) w' s t
      ∧ Warp.onlyVector (if s.width = 16 then [f.d, f.d + 1] else [f.d]) s.warp w'
      ∧ w.givesLanes w' s.width false f.d (fun l =>
          if f.u then code [some (lane32 w s.width f.a 0)] 0
          else if s.width = 16 then code (blockInputs w 16 f.a 0 16 ++ blockInputs w 16 (upperSrc f.a) 0 16) l
          else code (blockInputs w s.width f.a (l / 32 * 32) 32) (l % 32))
      ∧ (s.width = 16 → w.givesLanes w' 16 false (f.d + 1) fun l =>
          if f.u then code [some (lane32 w s.width f.a 0)] 0
          else code (blockInputs w 16 f.a 0 16 ++ blockInputs w 16 (upperSrc f.a) 0 16) (16 + l))

/-! Asynchronous copies. -/

/-- R60, R63, R84 to R90, R39: CPY, CPYT, GATH, SCAT, SCAT.RED and QFENCE whose queue has room and whose checks pass complete
at issue: the command enters the queue with its operands' values and the translations of its ranges, after the warp's own
reductions have performed (R218); CPYT's tile becomes FILLING or DRAINING. Else it takes the exception of its first failing check
in R63's order: 0x12 for the object, 0x0C for a local range or an index descriptor outside the allocation, 0x38 for a poisoned
descriptor (R97), 0x14 for an operand, the descriptor or the queue mask, 0x10 for the tile, and 0x14 for the first unit that does not
translate or, of CPY, the lowest byte that its two ranges share; one whose queue is full waits before any check. The model chose
(log 16): that of two local ranges the source's, or an index descriptor's rows, is looked at first, that an empty one is inside, that
a failing unit is named by its first byte, that a range past the last address goes on at 0, and that a translation that fails comes before an overlap; (log 29) that poison of a
descriptor comes before its fields. -/
def Obligations.CopyIssue : Prop :=
  (∀ (f : Ops) (q : BitVec 3) sl dl x (s : State), s.warp.exec ≠ 0 → (s.queue s.wg.core q.toNat).length < 16 →
    let src := sideOf sl (sval s.warp f.a)
    let dst := sideOf dl (readS s.warp f.d)
    let n := (sval s.warp f.b).toNat
    let obj := (sval s.warp f.c).toNat
    1 ≤ n → n ≤ 2 ^ 25 → objectOk s.wg obj (src.locs n ++ dst.locs n) = true → firstOutside s.wg (src.locs n ++ dst.locs n) = none →
    s.checkRanges s.wg.core s.wg.ctx (src.range n .engRead ++ dst.range n .engWrite) [] = .ok x → sidesOverlap src dst n = none →
    let s1 := s.flushReds s.cur
    ∃ t, exec (.cpy f q sl dl) s = .next t ∧ Retires (opd f) s.warp f.s s t
      ∧ t = { s1 with warps := t.warps, cores := t.cores, nextCmd := s.nextCmd + 1 }
      ∧ s1.enqueued t s.wg.core q.toNat (s.newCmd (.cpy src dst n) x obj n))
  ∧ (∀ (a b : DWord) n, n ≤ 2 ^ 25 → match sidesOverlap (.glob a) (.glob b) n with
      | some c => globIn a n c ∧ globIn b n c ∧ ∀ d, globIn a n d → globIn b n d → c ≤ d
      | none => ∀ d, globIn a n d → ¬globIn b n d)
  ∧ (∀ (f : Ops) out (q : BitVec 3) fmt pitch centre tr x (s : State), s.warp.exec ≠ 0 →
    (s.queue s.wg.core q.toNat).length < 16 →
    let k := f.d.toNat
    let e := s.wg.tile k
    let c : TileCopy := ⟨out, fmt.toNat, k, e, sval s.warp f.a, 16 * pitch.toNat, sval s.warp f.c, centre, tr⟩
    let obj := (sval s.warp f.b).toNat
    let acc := if out then Acc.engWrite else Acc.engRead
    e.v = true → (if out then e.state = .ready else s.tileFree k = true) → c.bad = false →
    (e.layout = true → e.rows = 32 ∨ e.rows = 64) → objectOk s.wg obj e.locs = true → firstOutside s.wg e.locs = none →
    s.checkRanges s.wg.core s.wg.ctx (⟨c.va, c.extent, [acc], 4⟩ ::
      if isMxCode c.fmt then [(⟨c.scale, e.blocks, [acc], 4⟩ : GRange)] else []) [] = .ok x →
    let s1 := (s.setWg (s.wg.setTile k { e with state := if out then .draining else .filling })).flushReds s.cur
    ∃ t, exec (.cpyt f out q fmt pitch centre tr) s = .next t ∧ Retires (opd f) s.warp f.s s t
      ∧ t = { s1 with warps := t.warps, cores := t.cores, nextCmd := s.nextCmd + 1 }
      ∧ s1.enqueued t s.wg.core q.toNat (s.newCmd (.cpyt c) x obj c.count))
  ∧ (∀ i (f : Ops) (q : BitVec 3) kind x (s : State), indexRow i = some (f, q, kind) → s.warp.exec ≠ 0 →
    (s.queue s.wg.core q.toNat).length < 16 →
    let off := (sval s.warp f.a).toNat
    let obj := (sval s.warp f.b).toNat
    let d := (idxDesc (s.padRead s.wg.core (s.wg.base + off) 64)).1
    off % 16 = 0 → off + 64 ≤ s.wg.alloc → s.core.latent = [] → s.locPoisoned s.wg off 64 = false →
    (idxDesc (s.padRead s.wg.core (s.wg.base + off) 64)).2 = true → d.ok kind = true →
    objectOk s.wg obj d.locs = true → firstOutside s.wg d.locs = none →
    s.checkRanges s.wg.core s.wg.ctx (d.ranges kind) [] = .ok x →
    let s1 := s.flushReds s.cur
    ∃ t, exec i s = .next t ∧ Retires (opd f) s.warp f.s s t
      ∧ t = { s1 with warps := t.warps, cores := t.cores, nextCmd := s.nextCmd + 1 }
      ∧ s1.enqueued t s.wg.core q.toNat (s.newCmd (idxKind kind d) x obj (d.n * d.rowb)))
  ∧ (∀ (f : Ops) (q : BitVec 3) sl dl (s : State), s.warp.exec ≠ 0 → (s.queue s.wg.core q.toNat).length < 16 →
    let src := sideOf sl (sval s.warp f.a)
    let dst := sideOf dl (readS s.warp f.d)
    let n := (sval s.warp f.b).toNat
    let obj := (sval s.warp f.c).toNat
    let faults := fun (c : Byte) (a : Nat) => exec (.cpy f q sl dl) s = .next (s.raiseW c (BitVec.ofNat 64 a))
    if objectOk s.wg obj (src.locs n ++ dst.locs n) = false then faults 0x12 obj
    else match firstOutside s.wg (src.locs n ++ dst.locs n) with
      | some a => faults 0x0C a
      | none =>
        if n = 0 ∨ 2 ^ 25 < n then faults 0x14 n
        else match s.checkRanges s.wg.core s.wg.ctx (src.range n .engRead ++ dst.range n .engWrite) [] with
          | .bad a => faults 0x14 a
          | .wait => True
          | .ok _ => ∀ a, sidesOverlap src dst n = some a → faults 0x14 a)
  ∧ (∀ (f : Ops) out (q : BitVec 3) fmt pitch centre tr (s : State), s.warp.exec ≠ 0 →
    (s.queue s.wg.core q.toNat).length < 16 →
    let k := f.d.toNat
    let e := s.wg.tile k
    (e.v = true → if out then e.state = .ready else s.tileFree k = true) →
    let c : TileCopy := ⟨out, fmt.toNat, k, e, sval s.warp f.a, 16 * pitch.toNat, sval s.warp f.c, centre, tr⟩
    let obj := (sval s.warp f.b).toNat
    let acc := if out then Acc.engWrite else Acc.engRead
    let faults := fun (z : Byte) (a : Nat) =>
      exec (.cpyt f out q fmt pitch centre tr) s = .next (s.raiseW z (BitVec.ofNat 64 a))
    if objectOk s.wg obj e.locs = false then faults 0x12 obj
    else match firstOutside s.wg e.locs with
      | some a => faults 0x0C a
      | none =>
        if c.bad = true then faults 0x14 c.va.toNat
        else if e.v = false ∨ e.layout = true ∧ e.rows ≠ 32 ∧ e.rows ≠ 64 then faults 0x10 k
        else ∀ a, s.checkRanges s.wg.core s.wg.ctx (⟨c.va, c.extent, [acc], 4⟩ ::
            if isMxCode c.fmt then [(⟨c.scale, e.blocks, [acc], 4⟩ : GRange)] else []) [] = .bad a → faults 0x14 a)
  ∧ (∀ i (f : Ops) (q : BitVec 3) kind (s : State), indexRow i = some (f, q, kind) → s.warp.exec ≠ 0 →
    (s.queue s.wg.core q.toNat).length < 16 → s.core.latent = [] →
    let g := s.wg
    let off := (sval s.warp f.a).toNat
    let obj := (sval s.warp f.b).toNat
    let d := (idxDesc (s.padRead g.core (g.base + off) 64)).1
    let faults := fun (c : Byte) (a : Nat) => exec i s = .next (s.raiseW c (BitVec.ofNat 64 a))
    if g.alloc < off + 64 then (if objectOk g obj [] = true then faults 0x0C (max off g.alloc) else faults 0x12 obj)
    else if s.locPoisoned g off 64 = true then faults 0x38 off
    else if objectOk g obj d.locs = false then faults 0x12 obj
    else match firstOutside g d.locs with
      | some a => faults 0x0C a
      | none =>
        if off % 16 ≠ 0 ∨ (idxDesc (s.padRead g.core (g.base + off) 64)).2 = false ∨ d.ok kind = false then faults 0x14 off
        else ∀ a, s.checkRanges g.core g.ctx (d.ranges kind) [] = .bad a → faults 0x14 a)
  ∧ (∀ (f : Ops) hasObj (q : BitVec 3) (s : State), s.warp.exec ≠ 0 → (s.queue s.wg.core q.toNat).length < 16 →
    let mask := (sval s.warp f.a).toNat
    let obj := (sval s.warp f.b).toNat
    let faults := fun (c : Byte) (a : Nat) => exec (.qfence f hasObj q) s = .next (s.raiseW c (BitVec.ofNat 64 a))
    if hasObj = true ∧ (obj % 16 ≠ 0 ∨ s.wg.alloc < obj + 16) then faults 0x12 obj else 256 ≤ mask → faults 0x14 mask)
  ∧ (∀ i (q : BitVec 3) (s : State), s.warp.exec ≠ 0 → 16 ≤ (s.queue s.wg.core q.toNat).length →
    ((∃ f a b, i = .cpy f q a b) ∨ (∃ f out fmt p c tr, i = .cpyt f out q fmt p c tr) ∨ (∃ f k, indexRow i = some (f, q, k))
      ∨ ∃ f b, i = .qfence f b q) →
    exec i s = .next (s.stallOn .queue))
  ∧ ∀ (f : Ops) hasObj (q : BitVec 3) (s : State), s.warp.exec ≠ 0 → (s.queue s.wg.core q.toNat).length < 16 →
    let mask := (sval s.warp f.a).toNat
    let obj := (sval s.warp f.b).toNat
    mask < 256 → (hasObj = true → objectOk s.wg obj [] = true) →
    let s1 := s.flushReds s.cur
    let waits := (List.range 8).flatMap fun k => if mask.testBit k then (s.core.queue k).map Cmd.id else []
    ∃ t, exec (.qfence f hasObj q) s = .next t ∧ Retires (opd f) s.warp f.s s t
      ∧ t = { s1 with warps := t.warps, cores := t.cores, nextCmd := s.nextCmd + 1 }
      ∧ s1.enqueued t s.wg.core q.toNat (s.newCmd (.qfence waits hasObj) [] obj 1)

/-- R60 to R62, R66 to R70, R72 to R75, R87, R88, R323: an idle engine takes the earliest-issued waiting head of its die and
performs it. A CPY puts the bytes of its source, as they were before it, at its destination; poisoned ones as 0 in a scratchpad
and as poison in memory, with POISON. A CPYT in puts at each block of its tile the canonical block of its elements in storage; a
CPYT out puts the tile's rows in the storage format. GATH puts at each row of its local range the row of A that its chain names,
or FILL; SCAT puts each local row at the row of A, of several at one row the last; SCAT.RED sends one reduction for each element
of A that its rows name, of their values combined in ascending order; a chain that leaves its extents gives BOUND. A performed
head leaves its queue and arrives with its count and flags, its tile READY; a reduction of SCAT.RED modifies its word; a QFENCE
whose commands have completed leaves its queue and arrives with 1; an unacknowledged peer write arrives with POISON as well. The
core has no latent error. That a CPY between two ranges of one frame gives the values from before is the model's choice (log 32),
and so are how a BFPS-m stream lies under a PITCH (log 18), and that a poisoned byte is 0 in a scratchpad and leaves the bytes of its
memory line under the mark, and that SCAT.RED groups elements by virtual address (log 29). -/
def Obligations.CopySteps : Prop :=
  (∀ (s : State) die engine core q c r, die < 4 → engine < 12 → s.isFrozen die (engineUnit die engine) = false →
    s.engineBusy die engine = false → core / 64 = die → q < 8 → s.queue core q = c :: r → c.waiting = true →
    (∀ core' q' c' r', core' / 64 = die → q' < 8 → s.queue core' q' = c' :: r' → c'.waiting = true → (core', q') ≠ (core, q) →
      c.id < c'.id) →
    exec (.engineTakesCommand die engine) s = .next ((runCmd c s).2.setHead core q
      { (runCmd c s).1 with engine := some engine }))
  ∧ (∀ (s : State) c src off n, c.kind = .cpy src (.loc off) n →
    let g := s.wgAt c.wg
    (s.coreAt g.core).latent = [] →
    let t := (runCmd c s).2
    (runCmd c s).1 = { c with stage := .performed, peer := false
                              flags := if (List.range n).any fun i => s.srcBad c.xlat g i src then 4 else 0 }
      ∧ (∀ i b, i < n → s.srcByte c.xlat g i src = some b → t.padRead g.core (g.base + off + i) 1 = [b])
      ∧ (∀ p, ¬(g.base + off ≤ p ∧ p < g.base + off + n) → t.padRead g.core p 1 = s.padRead g.core p 1)
      ∧ t = { s with cores := t.cores, free := t.free } ∧ s.otherCores g.core t)
  ∧ (∀ (s : State) c src va n, c.kind = .cpy src (.glob va) n → oneToOne c.xlat va.toNat n →
    let g := s.wgAt c.wg
    (s.coreAt g.core).latent = [] →
    let t := (runCmd c s).2
    let key := fun i => xkey c.xlat (va.toNat + i)
    (runCmd c s).1 = { c with stage := .performed, peer := (List.range n).any fun i => isPeer (key i)
                              flags := if (List.range n).any fun i => s.srcBad c.xlat g i src then 4 else 0 }
      ∧ (∀ i b, i < n → isPeer (key i) = false → s.srcBad c.xlat g i src = false → s.srcByte c.xlat g i src = some b →
          t.readMem (key i) 1 = [b])
      ∧ (∀ ln, ln ∈ t.linePoison ↔ ln ∈ s.linePoison
          ∨ ∃ i, i < n ∧ isPeer (key i) = false ∧ s.srcBad c.xlat g i src = true ∧ key i / 64 = ln)
      ∧ (∀ a, (∀ i, i < n → a ≠ key i) → t.readMem a 1 = s.readMem a 1)
      ∧ t = { s with mem := t.mem, linePoison := t.linePoison, free := t.free })
  ∧ (∀ (s : State) c (e : TileCopy), c.kind = .cpyt e → e.out = false →
    let g := s.wgAt c.wg
    let rows := (List.range e.storedRows).map fun r => s.xbytes c.xlat (e.va.toNat + r * e.step) e.rowBytes
    let scales := if isMxCode e.fmt then s.xbytes c.xlat e.scale.toNat e.tile.blocks else []
    let bs := blocksIn e (rows.map fun r => r.map fun b => (b, false)) (scales.map fun b => (b, false))
    (∀ r, r < e.storedRows → s.clean c.xlat (e.va.toNat + r * e.step) e.rowBytes) →
    (isMxCode e.fmt = true → s.clean c.xlat e.scale.toNat e.tile.blocks) →
    let t := (runCmd c s).2
    let p := g.base + e.tile.base.toNat
    (runCmd c s).1 = { c with stage := .performed, flags := if bs.2 then 2 else 0, peer := false }
      ∧ (isBfpCode e.fmt = false → bs.2 = false ∧ ∀ x b, x < e.tile.lines → b < e.tile.across →
          t.padRead g.core (g.base + e.tile.blockAt x b) (blockBytes e.tile.m) =
            blockIn e (fun r => leNat (rows.getD r [])) (fun k => (scales.getD k 0).toNat) x b)
      ∧ t.padRead g.core p bs.1.flatten.length = bs.1.flatten
      ∧ (∀ q, ¬(p ≤ q ∧ q < p + bs.1.flatten.length) → t.padRead g.core q 1 = s.padRead g.core q 1)
      ∧ t = { s with cores := t.cores } ∧ s.otherCores g.core t)
  ∧ (∀ (s : State) c (e : TileCopy), c.kind = .cpyt e → e.out = true →
    let g := s.wgAt c.wg
    let blocks := (List.range e.tile.blocks).map fun i =>
      (s.padRead g.core (g.base + (e.tile.base.toNat + i * blockBytes e.tile.m)) (blockBytes e.tile.m), false)
    let rowKey := fun r j => xkey c.xlat (e.va.toNat + r * e.step + j)
    let scaleKey := fun k => xkey c.xlat (e.scale.toNat + k)
    (s.coreAt g.core).latent = [] → s.locPoisoned g e.tile.base.toNat e.tile.bytes = false →
    (isBfpCode e.fmt = true → e.along = true) →
    (∀ r j r' j', r < e.storedRows → r' < e.storedRows → j < e.rowBytes → j' < e.rowBytes → rowKey r j = rowKey r' j' →
      r = r' ∧ j = j') →
    (isMxCode e.fmt = true → oneToOne c.xlat e.scale.toNat e.tile.blocks
      ∧ ∀ r j k, r < e.storedRows → j < e.rowBytes → k < e.tile.blocks → rowKey r j ≠ scaleKey k) →
    (∀ r j, r < e.storedRows → j < e.rowBytes → isPeer (rowKey r j) = false) →
    (isMxCode e.fmt = true → ∀ k, k < e.tile.blocks → isPeer (scaleKey k) = false) →
    let t := (runCmd c s).2
    (runCmd c s).1 = { c with stage := .performed, flags := 0, peer := false }
      ∧ (∀ r j, r < e.storedRows → j < e.rowBytes →
          t.readMem (rowKey r j) 1 = [(((rowsOut e blocks).getD r []).getD j (0, false)).1])
      ∧ (isMxCode e.fmt = true → ∀ k, k < e.tile.blocks → t.readMem (scaleKey k) 1 = [((scalesOut e blocks).getD k (0, false)).1])
      ∧ (∀ a, (∀ r j, r < e.storedRows → j < e.rowBytes → a ≠ rowKey r j) →
          (isMxCode e.fmt = true → ∀ k, k < e.tile.blocks → a ≠ scaleKey k) → t.readMem a 1 = s.readMem a 1)
      ∧ t = { s with mem := t.mem })
  ∧ (∀ (s : State) c d, c.kind = .gath d → d.ok 0 = true →
    let g := s.wgAt c.wg
    let row := d.row (s.elemC c.xlat g d) (s.elemB c.xlat d)
    s.cleanIndex c.xlat g d → s.clean c.xlat d.abase.toNat (d.aext * d.rowb) →
    let t := (runCmd c s).2
    (runCmd c s).1 = c.indexed d row false
      ∧ (∀ i, i < d.n → t.padRead g.core (g.base + (d.loc + i * d.rowb)) d.rowb = match row i with
          | some k => s.xbytes c.xlat (d.abase.toNat + k * d.rowb) d.rowb
          | none => (List.replicate (d.rowb / 4) (leBytes 4 d.fill.toNat)).flatten)
      ∧ (∀ p, ¬(g.base + d.loc ≤ p ∧ p < g.base + d.loc + d.n * d.rowb) → t.padRead g.core p 1 = s.padRead g.core p 1)
      ∧ t = { s with cores := t.cores } ∧ s.otherCores g.core t)
  ∧ (∀ (s : State) c d, c.kind = .scat d → d.ok 1 = true →
    let g := s.wgAt c.wg
    let row := d.row (s.elemC c.xlat g d) (s.elemB c.xlat d)
    let key := fun k j => xkey c.xlat (d.abase.toNat + k * d.rowb + j)
    s.cleanIndex c.xlat g d → s.locPoisoned g d.loc (d.n * d.rowb) = false → oneToOne c.xlat d.abase.toNat (d.aext * d.rowb) →
    (∀ k j, k < d.aext → j < d.rowb → (d.cLocal = false → ∀ i, i < 4 * d.n → key k j ≠ xkey c.xlat (d.cbase.toNat + i))
      ∧ (d.lev = 2 → ∀ i, i < 4 * d.bext → key k j ≠ xkey c.xlat (d.bbase.toNat + i))) →
    let t := (runCmd c s).2
    (runCmd c s).1 = c.indexed d row ((List.range d.n).any fun i => match row i with
        | some k => (List.range d.rowb).any fun j => isPeer (key k j)
        | none => false)
      ∧ (∀ i k j, i < d.n → row i = some k → j < d.rowb → isPeer (key k j) = false →
          (∀ i', i < i' → i' < d.n → row i' ≠ some k) →
          t.readMem (key k j) 1 = s.padRead g.core (g.base + (d.loc + i * d.rowb) + j) 1)
      ∧ (∀ a, (∀ i k j, i < d.n → row i = some k → j < d.rowb → a ≠ key k j) → t.readMem a 1 = s.readMem a 1)
      ∧ t = { s with mem := t.mem })
  ∧ (∀ (s : State) c d, c.kind = .scatRed d → d.ok 2 = true →
    let g := s.wgAt c.wg
    let row := d.row (s.elemC c.xlat g d) (s.elemB c.xlat d)
    let wd := d.width
    let join := fun (u v : Nat) => if wd = 8 then (aopNew (ropOf d.rop) (BitVec.ofNat 64 u) (BitVec.ofNat 64 v) 0).toNat
      else (aopNew (ropOf d.rop) (BitVec.ofNat 32 u) (BitVec.ofNat 32 v) 0).toNat
    let vals := fun k e => ((List.range d.n).filter fun i => row i = some k).map fun i =>
      leNat (s.padRead g.core (g.base + (d.loc + i * d.rowb + e * wd)) wd)
    s.cleanIndex c.xlat g d → s.locPoisoned g d.loc (d.n * d.rowb) = false →
    (runCmd c s).2 = s
      ∧ (runCmd c s).1 = { c.indexed d row c.peer with reds := (runCmd c s).1.reds }
      ∧ ∀ r, r ∈ (runCmd c s).1.reds ↔ ∃ k e v vs, k < d.aext ∧ e < d.rowb / wd ∧ vals k e = v :: vs
        ∧ r = ⟨c.wg, c.warp, xkey c.xlat (d.abase.toNat + k * d.rowb + e * wd), ropOf d.rop, wd = 8,
          [BitVec.ofNat 64 (vs.foldl join v)]⟩)
  ∧ (∀ (s : State) core q c r timeout, s.queue core q = c :: r → c.stage = .performed → c.reds = [] →
    s.cmdFrozen core c = false → (s.coreAt core).latent = [] → (timeout = true → c.peer = true) →
    let f := if timeout then c.flags ||| 4 else c.flags
    ∃ t, exec (if timeout then .peerAckTimeout core q else .asyncCommandComplete core q) s = .next t
      ∧ t = { s with cores := t.cores, wgs := t.wgs } ∧ s.otherCores core t
      ∧ t.coreAt core = { s.coreAt core with queues := (t.coreAt core).queues, pad := (t.coreAt core).pad }
      ∧ s.headed t core q none ∧ s.arrived t core c.obj c.count f.toNat ∧ s.otherWgs c.wg t
      ∧ t.wgAt c.wg = match c.kind.tile with
        | some k => (s.wgAt c.wg).setTile k { (s.wgAt c.wg).tile k with state := .ready }
        | none => s.wgAt c.wg)
  ∧ (∀ (s : State) core q i c rest r, s.queue core q = c :: rest → c.reds[i]? = some r → s.cmdFrozen core c = false →
    s.linePoisoned r.addr = false →
    ∃ t, exec (.scatRedReduction core q i) s = .next t ∧ t = { s with mem := t.mem, cores := t.cores } ∧ s.otherCores core t
      ∧ t.coreAt core = { s.coreAt core with queues := (t.coreAt core).queues }
      ∧ s.headed t core q (some { c with reds := c.reds.eraseIdx i })
      ∧ t.readMem r.addr (redBytes r) =
          leBytes (redBytes r) (atomWord r.op r.w64 (leNat (s.readMem r.addr (redBytes r))) (r.xs.map fun x => (x, 0)))
      ∧ ∀ a, ¬(r.addr ≤ a ∧ a < r.addr + redBytes r) → t.readMem a 1 = s.readMem a 1)
  ∧ ∀ (s : State) core q c r waits hasObj, s.queue core q = c :: r → c.kind = .qfence waits hasObj →
    (∀ id ∈ waits, ∀ k, k < 8 → ∀ m ∈ s.queue core k, m.id ≠ id) → (s.coreAt core).latent = [] →
    ∃ t, exec (.qfenceComplete core q) s = .next t ∧ t = { s with cores := t.cores } ∧ s.otherCores core t
      ∧ t.coreAt core = { s.coreAt core with queues := (t.coreAt core).queues, pad := (t.coreAt core).pad }
      ∧ s.headed t core q none
      ∧ if hasObj then s.arrived t core c.obj 1 0 else (t.coreAt core).pad = (s.coreAt core).pad

/-- R64, R68, R69, R91: ARV.INIT sets the object to COUNT = ARM = n; ARV.ADD arrives with n and its flags, after the warp's
own reductions (R217); ARV.EXP raises REM by n and gives D the old word 0; each takes 0x12 for an object that is misaligned or
outside the allocation and for a count outside its limit; and what an arrival does to word 0. That ARV.ADD and ARV.EXP on a poisoned
object change the bytes under the mark, that ARV.EXP gives D those bytes and does not trap, and the address of a count outside its
limit, the object's offset, are the model's choice (log 29). -/
def Obligations.ArrivalResults : Prop :=
  (∀ (f : Ops) (s : State), s.warp.exec ≠ 0 →
    let p := s.wg.base + (sval s.warp f.a).toNat
    let n := (sval s.warp f.b).toNat
    let c := s.wg.core
    objectOk s.wg (sval s.warp f.a).toNat [] = true → 1 ≤ n → n < 2 ^ 47 →
    (∃ t, exec (.arvInit f) s = .next t ∧ Retires (opd f) s.warp f.s s t ∧ t = { s with warps := t.warps, cores := t.cores }
      ∧ s.otherCores c t
      ∧ t.coreAt c = { s.coreAt c with pad := (t.coreAt c).pad, poison := (t.coreAt c).poison, latent := (t.coreAt c).latent }
      ∧ t.padRead c p 8 = leBytes 8 n ∧ t.padRead c (p + 8) 8 = leBytes 8 n
      ∧ (∀ q, ¬(p ≤ q ∧ q < p + 16) → t.padRead c q 1 = s.padRead c q 1)
      ∧ (∀ w, w ∈ (t.coreAt c).poison ↔ w ∈ (s.coreAt c).poison ∧ 16 * w ≠ p)
      ∧ ∀ e, e ∈ (t.coreAt c).latent ↔ e ∈ (s.coreAt c).latent ∧ 16 * e.1 ≠ p)
    ∧ (s.core.latent = [] → ∀ fl : BitVec 3,
      let s1 := s.flushReds s.cur
      ∃ t, exec (.arvAdd f fl) s = .next t ∧ Retires (opd f) s.warp f.s s t
        ∧ t = { s1 with warps := t.warps, cores := t.cores } ∧ s1.onlyPad c t ∧ s1.arrived t c p n fl.toNat)
    ∧ (s.core.latent = [] → ∃ t w', exec (.arvExp f) s = .next t ∧ Retires (opd f) w' f.s s t
      ∧ t = { s with warps := t.warps, cores := t.cores } ∧ s.onlyPad c t
      ∧ Warp.onlyScalar f.d s.warp w' ∧ w'.gives f.d (BitVec.ofNat 64 (leNat (s.padRead c p 8)))
      ∧ leNat (t.padRead c p 8) = expWord (leNat (s.padRead c p 8)) n % 2 ^ 64
      ∧ ∀ q, ¬(p ≤ q ∧ q < p + 8) → t.padRead c q 1 = s.padRead c q 1))
  ∧ (∀ i (f : Ops) (s : State), i = .arvInit f ∨ (∃ fl, i = .arvAdd f fl) ∨ i = .arvExp f → s.warp.exec ≠ 0 →
    let obj := (sval s.warp f.a).toNat
    let n := (sval s.warp f.b).toNat
    obj % 16 ≠ 0 ∨ s.wg.alloc < obj + 16 ∨ n = 0 ∨ 2 ^ 47 ≤ n → exec i s = .next (s.raiseW 0x12 (BitVec.ofNat 64 obj)))
  ∧ (∀ w0 arm n f : Nat, w0 < 2 ^ 64 → f < 8 →
    let rem := sext 48 w0 - (n : Int)
    let flips := 0 < n ∧ rem ≤ 0
    ((arriveWord w0 arm n f % 2 ^ 48 : Nat) : Int) = (if flips then sext 48 arm + rem else rem) % 2 ^ 48
      ∧ (arriveWord w0 arm n f).testBit 56 = (w0.testBit 56 != decide flips)
      ∧ ∀ j, 48 ≤ j → j ≠ 56 → (arriveWord w0 arm n f).testBit j =
          (w0.testBit j || (decide (57 ≤ j) && f.testBit (j - 57))))
  ∧ ∀ w0 n : Nat, w0 < 2 ^ 64 →
    (sext 48 w0 + (n : Int) ≤ 2 ^ 47 - 1 → ((expWord w0 n % 2 ^ 48 : Nat) : Int) = (sext 48 w0 + n) % 2 ^ 48
      ∧ expWord w0 n / 2 ^ 48 = w0 / 2 ^ 48)
    ∧ (2 ^ 47 - 1 < sext 48 w0 + (n : Int) → expWord w0 n % 2 ^ 48 = 2 ^ 47 - 1 ∧ (expWord w0 n).testBit 58 = true)

/-! Decoders. -/

/-- R92, R93, R63, R64, R77: DEC.SUB reads its record once the warp's own reductions on it have performed (R215). One whose
checks pass completes with 0 and the record is queued, or, of a decoder that holds sixteen, with 1 and no other effect; else it
takes the exception of its first failing check: 0x12 for the object, 0x0C for the windows, 0x14 for the decoder's number, the
record's address or a field, and 0x14 for the first unit that does not translate. DEC.STAT gives the decoder's word, and 0x14 for a
number above 3; and what the word's fields hold. The model chose (log 16): a decoder's number comes before the record's address,
that before its fields, and of its two global ranges the bitstream's before the status words'. -/
def Obligations.DecoderInstructions : Prop :=
  (∀ (f : Ops) x (s : State), s.warp.exec ≠ 0 →
    let a := sval s.warp f.a
    let i := (sval s.warp f.b).toNat
    let s0 := s.flushOver s.cur ((List.range 64).map fun j => (xkey x (a.toNat + j), 1))
    let b := (s0.engRead x a.toNat 64).1
    let s1 := (s0.engRead x a.toNat 64).2
    let r := (decRecord (wgOf s.cur) (warpNo s.cur) (b.map Prod.fst)).1
    let die := s.wg.core / 64
    let faults := fun (c : Byte) (n : Nat) => exec (.decSub f) s = .next (s1.raiseW c (BitVec.ofNat 64 n))
    s.checkRange s.wg.core s.wg.ctx ⟨a, 64, [.engRead], 4⟩ = .ok x → anyPoison b = false →
    if objectOk s.wg r.arv r.locs = false then faults 0x12 r.arv
    else match firstOutside s.wg r.locs with
    | some n => faults 0x0C n
    | none =>
      if 3 < i then faults 0x14 i
      else if a.toNat % 64 ≠ 0 ∨ (decRecord (wgOf s.cur) (warpNo s.cur) (b.map Prod.fst)).2 = false ∨ r.ok = false then
        faults 0x14 a.toNat
      else match s1.checkRanges s.wg.core s.wg.ctx r.ranges [] with
      | .wait => True
      | .bad n => faults 0x14 n
      | .ok y =>
        let s2 := s1.flushReds s.cur
        let d := s.decoderAt die i
        ∃ t w', exec (.decSub f) s = .next t ∧ Retires (opd f) w' f.s s t ∧ Warp.onlyScalar f.d s.warp w'
          ∧ if d.held < 16 then
              w'.gives f.d 0 ∧ t = { s2 with warps := t.warps, dies := t.dies, nextCmd := s.nextCmd + 1 }
                ∧ (∀ e, e ≠ die → t.dieAt e = s.dieAt e)
                ∧ t.dieAt die = { s.dieAt die with decoders := (t.dieAt die).decoders }
                ∧ t.decoderAt die i = { d with queue := d.queue ++ [{ r with xlat := y, id := s.nextCmd }] }
                ∧ ∀ j, j ≠ i → t.decoderAt die j = s.decoderAt die j
            else w'.gives f.d 1 ∧ t = { s1 with warps := t.warps })
  ∧ (∀ (f : Ops) (s : State), s.warp.exec ≠ 0 → (sval s.warp f.a).toNat ≤ 3 →
    ∃ t w', exec (.decStat f) s = .next t ∧ Completes (opd f) w' s t ∧ Warp.onlyScalar f.d s.warp w'
      ∧ w'.gives f.d (s.decoderAt (s.wg.core / 64) (sval s.warp f.a).toNat).status)
  ∧ (∀ (f : Ops) (s : State), s.warp.exec ≠ 0 → 3 < (sval s.warp f.a).toNat →
    exec (.decStat f) s = .next (s.raiseW 0x14 (sval s.warp f.a)))
  ∧ ∀ d : Decoder, d.held < 32 →
    (d.status.extractLsb' 0 5).toNat = d.held ∧ d.status.getLsbD 5 = d.active.isSome
      ∧ ∀ c, c < 4 → d.status.extractLsb' (16 + 8 * c) 8 = Tab.get 0 c d.marks

/-- R76 to R81: a decoder that is not frozen starts its next record, afresh without CONT; it puts out a frame as the window's
bytes, the status word and one arrival of the window's size, with POISON where it reads poison and CORRUPT for any code
but 0; the last frame ends the record. The bitstream is a sequence of OBUs; one of a type that decoding does not use changes
nothing; a shown frame is put out with the hidden ones before it; after a bitstream error nothing counts until the next
temporal delimiter; past the last frame the code is 4. The OBU format is taken from the AV1 specification and not from this
spec, what decoding a frame gives beyond its first bits is a free value, and that code 3 comes before 1 and 2 is the model's
choice (log 8), as is how an error is carried past places outside the frame (log 18). -/
def Obligations.DecoderSteps : Prop :=
  (∀ (s : State) die i r l, (s.decoderAt die i).active = none → (s.decoderAt die i).queue = r :: l →
    s.isFrozen die (decoderUnit die i) = false → (s.ctxAt (s.wgAt r.wg).ctx).replay = false →
    let d := s.decoderAt die i
    ∃ t, exec (.decoderRecordStart die i) s = .next t ∧ t = { s with dies := t.dies, free := s.free + 1 }
      ∧ t.decoderAt die i = { d with queue := l, active := some (r, 0), serial := (t.decoderAt die i).serial
                                     marks := (t.decoderAt die i).marks }
      ∧ (∀ c, Tab.get 0 c (t.decoderAt die i).serial = if c = r.sctx then s.free else Tab.get 0 c d.serial)
      ∧ ∀ c, Tab.get (0 : BitVec 8) c (t.decoderAt die i).marks =
          if c = r.sctx ∧ r.cont = false then 0 else Tab.get 0 c d.marks)
  ∧ (∀ (s : State) die i r f, (s.decoderAt die i).active = some (r, f) → s.isFrozen die (decoderUnit die i) = false →
    let d := s.decoderAt die i
    let g := s.wgAt r.wg
    let st := (s.engRead r.xlat r.bsa.toNat r.bsl).1
    let s1 := (s.engRead r.xlat r.bsa.toNat r.bsl).2
    let marks := (d.nextFrame r f (st.map Prod.fst)).1
    let a := (d.nextFrame r f (st.map Prod.fst)).2
    let code := a.code marks (Tab.get (0, 0) r.sctx d.areas).2
    let win := windowBytes r a (code = 0)
    let at_ := g.base + r.dst + f * r.fpitch
    let key := fun j => xkey r.xlat (r.sta.toNat + 4 * f + j)
    (s.coreAt g.core).latent = [] → (g.base + r.arv + 16 ≤ at_ ∨ at_ + win.length ≤ g.base + r.arv) →
    (∀ j, j < 4 → isPeer (key j) = false) → (∀ j k, j < 4 → k < 4 → key j = key k → j = k) →
    ∃ t, exec (.decoderOutputFrame die i) s = .next t
      ∧ t = { s1 with mem := t.mem, cores := t.cores, dies := t.dies } ∧ s.otherCores g.core t
      ∧ t.padRead g.core at_ win.length = win
      ∧ (∀ j, j < 4 → t.readMem (key j) 1 = [BitVec.ofNat 8 (statusWord a code / 256 ^ j)])
      ∧ (∀ k, (∀ j, j < 4 → k ≠ key j) → t.readMem k 1 = s.readMem k 1)
      ∧ leNat (t.padRead g.core (g.base + r.arv) 8) = arriveWord (leNat (s.padRead g.core (g.base + r.arv) 8))
          (leNat (s.padRead g.core (g.base + r.arv + 8) 8)) r.window
          (poisonFlag (a.taints st) ||| if code = 0 then 0 else 1).toNat % 2 ^ 64
      ∧ (∀ p, ¬(at_ ≤ p ∧ p < at_ + win.length) → ¬(g.base + r.arv ≤ p ∧ p < g.base + r.arv + 8) →
          t.padRead g.core p 1 = s.padRead g.core p 1)
      ∧ t.decoderAt die i = { d with active := if f + 1 < r.frames then some (r, f + 1) else none
                                     marks := (t.decoderAt die i).marks, seqs := (t.decoderAt die i).seqs }
      ∧ (∀ c, Tab.get (0 : BitVec 8) c (t.decoderAt die i).marks =
          if c = r.sctx then marksAfter a.refreshes code marks else Tab.get 0 c d.marks)
      ∧ ∀ c, Tab.get ([] : List Byte) c (t.decoderAt die i).seqs =
          if c = r.sctx ∧ r.frames ≤ f + 1 then a.seq else Tab.get [] c d.seqs)
  ∧ (∀ ty body rest, ty < 16 → body.length < 128 →
    let raw := BitVec.ofNat 8 (8 * ty + 2) :: BitVec.ofNat 8 body.length :: body
    nextObu (raw ++ rest) = some (⟨ty, none, body, raw⟩, rest))
  ∧ ∀ (area serial : Nat) (c : Av1Scan) (o : Obu),
    (o.type ∉ [1, 2, 3, 4, 6, 7, 8] → c.obu area serial o = c)
    ∧ (c.skip = true → c.cur = none → o.type ≠ 2 → c.obu area serial o = c)
    ∧ (o.type = 2 → (c.obu area serial o).skip = false)
    ∧ (∀ a, c.cur = some a → o.decoded c.seq = true → o.type ∉ [2, 4, 7] →
        if ({ a with obus := c.obus } : Av1).own area = 1 then c.obu area serial o = c.close area
        else (c.obu area serial o).obus = c.obus ++ [o.raw] ∧ (c.obu area serial o).skip = false)
    ∧ (∀ a, c.cur = some a → (c.close area).out = c.out ++
        if ({ a with obus := c.obus } : Av1).shown then [(c.hidden, { a with obus := c.obus })] else [])
    ∧ ∀ f marks, c.out.length ≤ f → (c.frame serial f).2.code marks area = 4

/-! The matrix engine. -/

/-- R105, R203 to R206: TDSET whose checks pass describes the tile, READY with RDY and else EMPTY; TDGET gives the entry's
word; TFREE frees it, after which it reads as zeros; and what the word's fields hold. A descriptor at or above the declared count
takes 0x10; TDSET and TFREE of a tile in use wait; TDSET takes 0x10 for its shape word and 0x0C for a base that does not fit in 30
bits, with the word offset as the address, or a tile outside the allocation, with its base. -/
def Obligations.TileResults : Prop :=
  (∀ (f : Ops) rdy m (s : State), s.warp.exec ≠ 0 → f.d.toNat < s.wg.fp.tiles → s.tileFree f.d.toNat = true →
    let a := (sval s.warp f.a).toNat
    let w := (sval s.warp f.b).toNat
    let e := tileOf rdy m a w
    w < 2 ^ 11 → (w.testBit 10 = true → e.rows = 32 ∨ e.rows = 64) → a < 2 ^ 30 → 4 * a + e.bytes ≤ s.wg.alloc →
    ∃ t, exec (.tdset f rdy m) s = .next t ∧ Retires (opd f) s.warp f.s s t ∧ t = { s with warps := t.warps, wgs := t.wgs }
      ∧ s.otherWgs (wgOf s.cur) t ∧ t.wgAt (wgOf s.cur) = { s.wg with tiles := (t.wgAt (wgOf s.cur)).tiles }
      ∧ ∀ k, (t.wgAt (wgOf s.cur)).tile k = if k = f.d.toNat then e else s.wg.tile k)
  ∧ (∀ (f : Ops) (s : State), s.warp.exec ≠ 0 → numOf f.a < s.wg.fp.tiles →
    (∃ t w', exec (.tdget f) s = .next t ∧ Completes (opd f) w' s t ∧ Warp.onlyScalar f.d s.warp w'
      ∧ w'.gives f.d ((s.wg.tile (numOf f.a)).word s.wg.owner))
    ∧ (s.tileFree (numOf f.a) = true →
      ∃ t, exec (.tfree f) s = .next t ∧ Retires (opd f) s.warp f.s s t ∧ t = { s with warps := t.warps, wgs := t.wgs }
        ∧ s.otherWgs (wgOf s.cur) t ∧ t.wgAt (wgOf s.cur) = { s.wg with tiles := (t.wgAt (wgOf s.cur)).tiles }
        ∧ ∀ k, (t.wgAt (wgOf s.cur)).tile k = if k = numOf f.a then {} else s.wg.tile k))
  ∧ (∀ i k (s : State), (∃ f rdy m, i = .tdset f rdy m ∧ k = f.d.toNat) ∨ (∃ f, i = .tdget f ∧ k = numOf f.a)
      ∨ (∃ f, i = .tfree f ∧ k = numOf f.a) → s.warp.exec ≠ 0 →
    (s.wg.fp.tiles ≤ k → exec i s = .next (s.raiseW 0x10 (BitVec.ofNat 64 k)))
    ∧ (k < s.wg.fp.tiles → s.tileFree k = false → (∀ f, i ≠ .tdget f) → exec i s = .next (s.stallOn .tile)))
  ∧ (∀ (f : Ops) rdy m (s : State), s.warp.exec ≠ 0 → f.d.toNat < s.wg.fp.tiles → s.tileFree f.d.toNat = true →
    let a := (sval s.warp f.a).toNat
    let w := (sval s.warp f.b).toNat
    let rows := w % 64 + 1
    let cols := 32 * (w / 64 % 16 + 1)
    let bytes := rows * cols / 32 * (8 + 4 * mcodeM m)
    let faults := fun (c : Byte) (n : Nat) => exec (.tdset f rdy m) s = .next (s.raiseW c (BitVec.ofNat 64 n))
    if 2 ^ 11 ≤ w ∨ w.testBit 10 = true ∧ rows ≠ 32 ∧ rows ≠ 64 then faults 0x10 f.d.toNat
    else if 2 ^ 30 ≤ a then faults 0x0C a
    else s.wg.alloc < 4 * a + bytes → faults 0x0C (4 * a))
  ∧ ∀ (e : TileEntry) owner, (e.v = false → e.word owner = 0)
    ∧ (e.v = true → (e.word owner).getLsbD 63 = true ∧ ((e.word owner).extractLsb' 58 5).toNat = owner % 32
      ∧ ((e.word owner).extractLsb' 56 2).toNat = (match e.state with | .empty => 0 | .filling => 1 | .ready => 2 | .draining => 3)
      ∧ (e.word owner).getLsbD 55 = e.layout ∧ (e.word owner).extractLsb' 51 4 = e.mc ∧ (e.word owner).extractLsb' 47 4 = e.cb
      ∧ (e.word owner).extractLsb' 41 6 = e.rw ∧ (e.word owner).extractLsb' 0 20 = e.base)

/-- R195, R196, R203, R207 to R211: MMA, MMA.SP, ACCZ, ACCL and ACCD whose checks pass complete when the queue has room: the
operation enters the core's matrix queue with exec and the tiles' entries as they are, ACCD's tiles FILLING. ACCR enters it too, with
its first row and its columns, waits for its operation, and then gives each active lane what that has read for it. At a queue of eight
an instruction that enters it waits before any check; MMA waits while a tile is FILLING or DRAINING. Else the first failing check takes
its exception: 0x11 for the accumulator; 0x10 for MMA's tiles, in R195's order, and for ACCD's; 0x0A and 0x0C for ACCL's base; 0x12 for
ACCD's object. That of D and C which only overlap C is named is the model's choice, as is that an ACCR retires only once its operation
is complete (log 29). -/
def Obligations.MatrixIssue : Prop :=
  (∀ i o kind ok (s : State), matrixRow s i = some (o, kind, ok) → s.warp.exec ≠ 0 → o.d.toNat < s.wg.fp.accs → ok = true →
    s.core.matq.length < 8 →
    let s1 := s.flushReds s.cur
    ∃ t, exec i s = .next t ∧ Retires o s.warp o.s s t
      ∧ t = { s1 with warps := t.warps, cores := t.cores, nextCmd := s.nextCmd + 1 }
      ∧ s1.matrixQueued t s.wg.core o.d.toNat s.nextCmd (wgOf s.cur) (warpNo s.cur) kind)
  ∧ (∀ (f : Ops) (s : State), s.warp.exec ≠ 0 → f.d.toNat < s.wg.fp.accs → s.core.matq.length < 8 →
    let base := (sval s.warp f.a).toNat
    base % 16 = 0 → base + 256 * ((ownedRows s.width s.warp.exec).getLast?.getD 0) + 256 ≤ s.wg.alloc →
    let s1 := s.flushReds s.cur
    ∃ t, exec (.accl f) s = .next t ∧ Retires (opd f) s.warp f.s s t
      ∧ t = { s1 with warps := t.warps, cores := t.cores, nextCmd := s.nextCmd + 1 }
      ∧ s1.matrixQueued t s.wg.core f.d.toNat s.nextCmd (wgOf s.cur) (warpNo s.cur) (.accl base s.warp.exec))
  ∧ (∀ (f : Ops) tr (s : State), s.warp.exec ≠ 0 → numOf f.a < s.wg.fp.accs → s.core.matq.length < 8 →
    let d := f.d.toNat
    let c := if tr then some (numOf f.c) else none
    let obj := (sval s.warp f.b).toNat
    (∀ k ∈ accdTiles d c, s.tileFree k = true) →
    objectOk s.wg obj ((accdTiles d c).flatMap fun k => (s.wg.tile k).locs) = true → accdFault d c s.wg = none →
    let s1 := (s.setWg ((accdTiles d c).foldl (fun g k => g.setTile k { g.tile k with state := .filling }) s.wg)).flushReds s.cur
    ∃ t, exec (.accd f tr) s = .next t ∧ Retires (opd f) s.warp f.s s t
      ∧ t = { s1 with warps := t.warps, cores := t.cores, nextCmd := s.nextCmd + 1 }
      ∧ s1.matrixQueued t s.wg.core (numOf f.a) s.nextCmd (wgOf s.cur) (warpNo s.cur) (.accd d c obj))
  ∧ (∀ i (s : State), entersMatrix i = true → ¬((∃ f gr, i = .accr f gr) ∧ s.warp.awaitsAccr) → s.warp.exec ≠ 0 →
    8 ≤ s.core.matq.length → exec i s = .next (s.stallOn .matrix))
  ∧ (∀ i o a b (s : State), mmaRow i = some (o, a, b) → s.warp.exec ≠ 0 → s.core.matq.length < 8 →
    let A := s.wg.tile a
    let B := s.wg.tile b
    let faults := fun (c : Byte) (n : Nat) => exec i s = .next (s.raiseW c (BitVec.ofNat 64 n))
    if A.busy = true ∨ B.busy = true then exec i s = .next (s.stallOn .tile)
    else if s.wg.fp.accs ≤ o.d.toNat then faults 0x11 o.d.toNat
    else if A.v = false then faults 0x10 a
    else if B.v = false then faults 0x10 b
    else if A.state = .empty then faults 0x10 a
    else if B.state = .empty then faults 0x10 b
    else if B.layout = false ∨ (B.rows ≠ 32 ∧ B.rows ≠ 64) ∨ (B.cols ≠ 32 ∧ B.cols ≠ 64) ∨ A.cols ≠ B.rows then faults 0x10 b
    else A.layout = true → faults 0x10 a)
  ∧ (∀ i o (s : State), ((∃ f, i = .accz f ∧ o = opd f) ∨ ∃ f, i = .acczC f ∧ o = copdN f) → s.warp.exec ≠ 0 →
    s.core.matq.length < 8 → s.wg.fp.accs ≤ o.d.toNat → exec i s = .next (s.raiseW 0x11 (BitVec.ofNat 64 o.d.toNat)))
  ∧ (∀ (f : Ops) (s : State), s.warp.exec ≠ 0 → s.core.matq.length < 8 →
    let base := (sval s.warp f.a).toNat
    let faults := fun (c : Byte) (n : Nat) => exec (.accl f) s = .next (s.raiseW c (BitVec.ofNat 64 n))
    if s.wg.fp.accs ≤ f.d.toNat then faults 0x11 f.d.toNat
    else if base % 16 ≠ 0 then faults 0x0A base
    else ∀ r, ownedRow s.width s.warp.exec r → (∀ q, ownedRow s.width s.warp.exec q → q ≤ r) →
      s.wg.alloc < base + 256 * r + 256 → faults 0x0C (max (base + 256 * r) s.wg.alloc))
  ∧ (∀ (f : Ops) tr (s : State), s.warp.exec ≠ 0 → s.core.matq.length < 8 →
    let d := f.d.toNat
    let c := if tr then some (numOf f.c) else none
    let C := s.wg.tile (numOf f.c)
    let D := s.wg.tile d
    let obj := (sval s.warp f.b).toNat
    let faults := fun (z : Byte) (n : Nat) => exec (.accd f tr) s = .next (s.raiseW z (BitVec.ofNat 64 n))
    (∀ k ∈ accdTiles d c, (s.wg.tile k).v = true → s.tileFree k = true) →
    if s.wg.fp.accs ≤ numOf f.a then faults 0x11 (numOf f.a)
    else if objectOk s.wg obj ((accdTiles d c).flatMap fun k => (s.wg.tile k).locs) = false then faults 0x12 obj
    else if D.v = false then faults 0x10 d
    else if tr = true ∧ C.v = false then faults 0x10 (numOf f.c)
    else if D.layout = true ∨ (D.cols ≠ 32 ∧ D.cols ≠ 64) then faults 0x10 d
    else tr = true → (D.rows ≠ 32 ∧ D.rows ≠ 64) ∨ (if C.layout then C.rows ≠ D.rows ∨ C.cols ≠ D.cols
        else C.rows ≠ D.cols ∨ C.cols ≠ D.rows) ∨ numOf f.c = d ∨ overlaps D.base.toNat D.bytes C.base.toNat C.bytes = true →
      faults 0x10 (numOf f.c))
  ∧ (∀ (f : Ops) gr (s : State), s.warp.exec ≠ 0 → ¬s.warp.awaitsAccr → s.core.matq.length < 8 →
    (s.wg.fp.accs ≤ numOf f.a → exec (.accr f gr) s = .next (s.raiseW 0x11 (BitVec.ofNat 64 (numOf f.a))))
    ∧ (numOf f.a < s.wg.fp.accs →
      ∃ t cols, exec (.accr f gr) s = .next t ∧ t = { s with warps := t.warps, cores := t.cores, nextCmd := s.nextCmd + 1 }
        ∧ s.nowAt t s.cur { s.warp with stall := some (.accr s.nextCmd none), fetched := s.iw }
        ∧ s.matrixQueued t s.wg.core (numOf f.a) s.nextCmd (wgOf s.cur) (warpNo s.cur) (.accr (gr.toNat * s.width) cols)
        ∧ cols.length = s.width
        ∧ ∀ l, l < s.width → cols[l]? = some ((lane32 s.warp s.width f.b l).toNat % 64)))
  ∧ ∀ (f : Ops) gr id (s : State), s.warp.exec ≠ 0 →
    (s.warp.stall = some (.accr id none) → exec (.accr f gr) s = .next s)
    ∧ ∀ got, s.warp.stall = some (.accr id (some got)) → ∃ t w', exec (.accr f gr) s = .next t ∧ Completes (opd f) w' s t
      ∧ Warp.onlyVector [f.d] s.warp w' ∧ s.warp.givesLanes w' s.width false f.d fun l => got.getD l 0

/-- R54, R193, R196, R197, R208, R209, R199, R200, R210, R211: the next operation on its accumulator tile performs on the rows that
its owner lanes hold, and on no other element: ACCZ zeros them, ACCL loads them, a poisoned word as +0, MMA adds its block
products, and a drain or an ACCR's only starts; an operation that has started leaves the queue, an ACCR's giving the warp that waits
for it the tile's elements of its rows and columns, a drain writing its tile, and with a second one the accumulator's columns to that,
which become READY, and arriving with their bytes. The core has no latent error. -/
def Obligations.MatrixSteps : Prop :=
  (∀ (s : State) core i m, (s.coreAt core).matq[i]? = some m → m.started = false →
    (∀ e ∈ (s.coreAt core).matq.take i, ¬(e.wg = m.wg ∧ e.acc = m.acc)) → (s.wgAt m.wg).core = core →
    (s.coreAt core).latent = [] →
    (∀ sp ta tb ea eb rows ftz, m.kind = .mma sp ta tb ea eb rows ftz → eb.cols ≤ 64) →
    let g := s.wgAt m.wg
    ∃ t, exec (.matrixOperationStart core i) s = .next t ∧ t = { s with cores := t.cores, wgs := t.wgs } ∧ s.otherCores core t
      ∧ t.coreAt core = { s.coreAt core with matq := (s.coreAt core).matq.set i { m with started := true } }
      ∧ s.otherWgs m.wg t ∧ t.wgAt m.wg = { g with accs := (t.wgAt m.wg).accs }
      ∧ (∀ a r j, r < 64 → j < 64 → a ≠ m.acc → (t.wgAt m.wg).acc a r j = g.acc a r j)
      ∧ match m.kind with
        | .accz rows => ∀ r j, r < 64 → j < 64 →
            (ownedRow g.fp.width rows r → (t.wgAt m.wg).acc m.acc r j = 0)
              ∧ (¬ownedRow g.fp.width rows r → (t.wgAt m.wg).acc m.acc r j = g.acc m.acc r j)
        | .accl base rows => ∀ r j, r < 64 → j < 64 →
            (ownedRow g.fp.width rows r → (t.wgAt m.wg).acc m.acc r j =
              if s.locPoisoned g (base + 256 * r + 4 * j) 4 then 0 else s.padWord core (g.base + (base + 256 * r + 4 * j)))
              ∧ (¬ownedRow g.fp.width rows r → (t.wgAt m.wg).acc m.acc r j = g.acc m.acc r j)
        | .mma _ _ _ ea eb rows ftz => ∀ r j, r < 64 → j < 64 →
            (ownedRow g.fp.width rows r ∧ r < ea.rows ∧ j < eb.cols → (t.wgAt m.wg).acc m.acc r j =
              mmaElem ftz (ea.cols / 32) (operand ea (readBlocks ea g s).1) (operand eb (readBlocks eb g s).1) r j (g.acc m.acc r j))
              ∧ (¬(ownedRow g.fp.width rows r ∧ r < ea.rows ∧ j < eb.cols) →
                (t.wgAt m.wg).acc m.acc r j = g.acc m.acc r j)
        | .accr .. | .accd .. => ∀ r j, r < 64 → j < 64 → (t.wgAt m.wg).acc m.acc r j = g.acc m.acc r j)
  ∧ (∀ (s : State) core i m first cols, (s.coreAt core).matq[i]? = some m → m.started = true → m.kind = .accr first cols →
    let k := 32 * m.wg + m.warp
    let w := s.warpAt k
    ∃ t, exec (.matrixOperationComplete core i) s = .next t ∧ t = { s with cores := t.cores, warps := t.warps }
      ∧ s.otherCores core t ∧ t.coreAt core = { s.coreAt core with matq := (s.coreAt core).matq.eraseIdx i }
      ∧ (w.stall ≠ some (.accr m.id none) → t.warps = s.warps)
      ∧ (w.stall = some (.accr m.id none) → ∃ got, s.nowAt t k { w with stall := some (.accr m.id (some got)) }
        ∧ got.length = cols.length
        ∧ ∀ l (h : l < cols.length), got[l]? = some ((s.wgAt m.wg).acc m.acc (first + l) cols[l])))
  ∧ (∀ (s : State) core i m, (s.coreAt core).matq[i]? = some m → m.started = true → (∀ d c obj, m.kind ≠ .accd d c obj) →
    (∀ first cols, m.kind ≠ .accr first cols) →
    ∃ t, exec (.matrixOperationComplete core i) s = .next t ∧ t = { s with cores := t.cores } ∧ s.otherCores core t
      ∧ t.coreAt core = { s.coreAt core with matq := (s.coreAt core).matq.eraseIdx i })
  ∧ ∀ (s : State) core i m d c obj, (s.coreAt core).matq[i]? = some m → m.started = true → m.kind = .accd d c obj →
    (s.wgAt m.wg).core = core → (s.coreAt core).latent = [] → c ≠ some d →
    let g := s.wgAt m.wg
    let at_ := fun k => (g.tile k).base.toNat
    let parts := (d, drainTile g m.acc (g.tile d) false (g.tile d).rows ((g.tile d).cols / 32)) ::
      c.toList.map fun k => (k, drainTile g m.acc (g.tile k) true (g.tile d).cols ((g.tile d).rows / 32))
    (∀ p ∈ parts, obj + 16 ≤ at_ p.1 ∨ at_ p.1 + p.2.length ≤ obj) →
    (∀ p ∈ parts, ∀ q ∈ parts, p.1 ≠ q.1 → at_ p.1 + p.2.length ≤ at_ q.1 ∨ at_ q.1 + q.2.length ≤ at_ p.1) →
    ∃ t, exec (.matrixOperationComplete core i) s = .next t ∧ t = { s with cores := t.cores, wgs := t.wgs }
      ∧ s.otherCores core t ∧ s.otherWgs m.wg t ∧ (t.coreAt core).matq = (s.coreAt core).matq.eraseIdx i
      ∧ t.wgAt m.wg = { g with tiles := (t.wgAt m.wg).tiles }
      ∧ (∀ k, (t.wgAt m.wg).tile k = if k = d ∨ some k = c then { g.tile k with state := .ready } else g.tile k)
      ∧ (∀ p ∈ parts, t.padRead core (g.base + at_ p.1) p.2.length = p.2)
      ∧ leNat (t.padRead core (g.base + obj) 8) = arriveWord (leNat (s.padRead core (g.base + obj) 8))
          (leNat (s.padRead core (g.base + obj + 8) 8)) ((parts.map fun p => (g.tile p.1).bytes).sum) 0 % 2 ^ 64
      ∧ ∀ p, (∀ x ∈ parts, ¬(g.base + at_ x.1 ≤ p ∧ p < g.base + at_ x.1 + x.2.length)) →
          ¬(g.base + obj ≤ p ∧ p < g.base + obj + 8) → t.padRead core p 1 = s.padRead core p 1

/-! Sets. -/

/-- R141, R142, R125 to R128, R138: a per-lane set instruction on a usable set, with every key below the universe and its
granules free, completes: the lanes act in ascending order at one point, the result of each goes to D, and the set then holds
what the lanes and the representation rules after them leave, with its cost charged. Nothing else differs. R121, R302: a stale
handle takes 0x18 and a lost set's 0x38, with the handle as the address; a key at or above the universe takes 0x1A with the
lowest such lane's key, before any wait; R134: SET.INS and SET.DEL without the granules that they reserve take 0x19 once nothing
holds them back; both come before poison is found. That a lost set's 0x38 stands before the keys is the model's
choice (log 34), and so are the pane whose test clocks SET.SEL and SET.NEXT add, the order of the keys of a new HASHED table, the panes
of a new PANED set (log 20), and that the entry in memory follows its LAYOUT (log 11). And what one key does to a set in good order, and to the members of a hashed table whose keys are all
found. -/
def Obligations.SetLaneResults : Prop :=
  (∀ i o op w64 (s : State), setLaneRow i = some (o, op, w64) → s.warp.exec ≠ 0 →
    (o.u = true → op ≠ .card → firstNonUni s.warp [(1, o.b, false)] = none) →
    let h : Word := (sval s.warp o.a).setWidth 32
    let n := handleIndex h
    let e := s.ctx.set n
    let keys := laneKeys s o
    s.usable h = true → (op ≠ .sel → op ≠ .card → ∀ k ∈ keys, k.2 < e.val.u) →
    (op.mutates = true → laneReserve e.val keys.length ≤ s.ctx.freeGranules) →
    let r := runLanes op keys e.val
    let v := if op.mutates then settle e.val.card r.2.1 else (r.2.1, [])
    ∃ t w', exec i s = .next t ∧ Retires o w' o.s s t ∧ t = { s with warps := t.warps, ctxs := t.ctxs, mem := t.mem }
      ∧ s.setPut t s.wg.ctx n { e.mutated (s.ctx.setStamp + 1) v.1 with
          cost := addCost e.cost ([(3, 4 + r.2.2.1), (20, r.2.2.2)] ++ v.2) } 1
      ∧ Warp.onlyVector (if w64 then [o.d, o.d + 1] else [o.d]) s.warp w'
      ∧ (w64 = true → ∀ l, l < s.width → l < 64 → (readV w' (o.d + 1)).lane l ++ (readV w' o.d).lane l =
          if s.warp.active l then BitVec.ofNat 64 (Tab.get 0 (bodyLane o.u l) r.1)
          else (readV s.warp (o.d + 1)).lane l ++ (readV s.warp o.d).lane l)
      ∧ (w64 = false → s.warp.givesLanes w' s.width o.u o.d fun l => BitVec.ofNat 32 (min (Tab.get 0 l r.1) (2 ^ 32 - 1))))
  ∧ (∀ i o op w64 (s : State), setLaneRow i = some (o, op, w64) → s.warp.exec ≠ 0 →
    (o.u = true → op ≠ .card → firstNonUni s.warp [(1, o.b, false)] = none) →
    let h : Word := (sval s.warp o.a).setWidth 32
    let e := s.ctx.set (handleIndex h)
    let faults := fun (c : Byte) => exec i s = .next (s.raiseW c (BitVec.ofNat 64 h.toNat))
    (s.ctx.stale h = true → faults 0x18) ∧ (s.ctx.stale h = false → e.lost = true → faults 0x38)
    ∧ (s.ctx.stale h = false → e.lost = false → op.mutates = true → (∀ p ∈ laneKeys s o, p.2 < e.val.u) →
        s.setBusy (handleIndex h) = false → s.sliceFrozen e.home = false →
        s.ctx.freeGranules < laneReserve e.val (laneKeys s o).length → faults 0x19)
    ∧ ∀ l k, s.ctx.stale h = false → e.lost = false → op ≠ .sel → op ≠ .card → (l, k) ∈ laneKeys s o → e.val.u ≤ k →
      (∀ p ∈ laneKeys s o, p.1 < l → p.2 < e.val.u) →
      ∃ m, exec i s = .next (s.raise 0x1A m (BitVec.ofNat 64 k)) ∧ maskOfFault s.warp o.u (bodyLanes s.warp s.width o.u)
        (fun j => decide (e.val.u ≤ (lane32 s.warp s.width o.b j).toNat)) m)
  ∧ (∀ (v : SetVal) ins k, v.good → (v.layout = .direct → k < 4096) →
      (keyStep ins v k).hit = decide (k ∈ v.members) ∧ (keyStep ins v k).val.good
        ∧ (∀ j, j ∈ (keyStep ins v k).val.members ↔ if j = k then ins = true else j ∈ v.members)
        ∧ (keyTest v k).1 = decide (k ∈ v.members) ∧ rising v.members ∧ v.card = v.members.length)
  ∧ ∀ (v : SetVal) k, v.layout = .hashed → k < 2 ^ 32 → (∀ p ∈ v.slots, p.2 ≠ emptySlot ∧ Tab.get emptySlot p.1 v.slots = p.2
        ∧ (lookupSlot v.cap p.2.toNat v.slots).2.1 = true) →
      (keyTest v k).1 = decide (k ∈ v.members)

/-- R120, R144 to R149, R122, R133: SET.NEW gives the handle of the lowest free entry, which becomes an empty set of its
universe with CHECK advanced past 0; SET.FREE clears V; SET.CLEAR empties the set; SET.PIN answers 0 and sets the bit, or 1
where the pinned bytes would exceed 2^20; SET.REP, SET.COST and SET.EST give their words. Nothing else differs. R121, R302: a
stale handle takes 0x18, and of all but SET.FREE a lost set's takes 0x38, with the handle as the address, of SET.EST the first such
of A, B and C. SET.NEW takes 0x03 for a die above 3 and 0x19 where no entry is free or the arena lacks the granules; SET.REP 0x1A for
a pane number beyond the universe; SET.COST 0x03 for an index above 20; SET.EST 0x1A for universes that differ. SET.EST waits for the
warp's own earlier commands on its C (R143). The address of that last 0x1A, the handle in A, the place of 0x38, and that SET.NEW's
header lines are poisoned no longer are the model's choice (log 34), and so are the place of a header and that the entry in memory
follows its LAYOUT and PIN (log 11), and the pane counts of SET.EST for a PANED set with a HASHED one (log 20). -/
def Obligations.SetManagement : Prop :=
  (∀ (f : Ops) hint n (s : State), s.warp.exec ≠ 0 →
    let u0 := (lane32 s.warp s.width f.a 0).toNat
    let u := if u0 = 0 then 2 ^ 32 else u0
    let die := (sval s.warp f.b).toNat
    (hint = true → die ≤ 3) → n < s.ctx.shtn → (s.ctx.set n).v = false → (∀ j, j < n → (s.ctx.set j).v = true) →
    4 + (SetVal.empty u).granules ≤ s.ctx.freeGranules →
    ∃ t w' e, exec (.setNew f hint) s = .next t ∧ Retires (opd f) w' f.s s t
      ∧ t = { s with warps := t.warps, ctxs := t.ctxs, mem := t.mem, free := s.free + 1, linePoison := t.linePoison }
      ∧ s.setPut t s.wg.ctx n e 1
      ∧ (∀ ln, ln ∈ t.linePoison ↔ ln ∈ s.linePoison
        ∧ ¬(s.ctx.arena + 64 * e.hdr.toNat ≤ 64 * ln ∧ 64 * ln < s.ctx.arena + 64 * e.hdr.toNat + 256))
      ∧ e.v = true ∧ e.pin = false ∧ e.lost = false ∧ e.poison = false ∧ e.val = SetVal.empty u ∧ e.val.members = []
      ∧ e.cost = [] ∧ e.home = homeOf n (if hint then some die else none)
      ∧ e.check = (if (s.ctx.set n).check = 255 then 1 else (s.ctx.set n).check + 1) ∧ e.check ≠ 0
      ∧ Warp.onlyScalar f.d s.warp w' ∧ w'.gives f.d ((e.check ++ BitVec.ofNat 24 n).setWidth 64))
  ∧ (∀ (f : Ops) (s : State), s.warp.exec ≠ 0 →
    let h : Word := (sval s.warp f.a).setWidth 32
    let n := handleIndex h
    let e := s.ctx.set n
    s.ctx.stale h = false → (∀ m ∈ s.ctx.setCmds, m.writesTo n = false ∧ m.awaits n = false) → s.sliceFrozen e.home = false →
    ∃ t, exec (.setFree f) s = .next t ∧ Retires (opd f) s.warp f.s s t
      ∧ t = { s with warps := t.warps, ctxs := t.ctxs, mem := t.mem }
      ∧ s.setPut t s.wg.ctx n { e with v := false, poison := false, lost := false } 1 ∧ t.ctx.stale h = true)
  ∧ (∀ (f : Ops) i (s : State), s.warp.exec ≠ 0 →
    i = .setFree f ∨ i = .setClear f ∨ (∃ on, i = .setPin f on) ∨ i = .setRep f ∨ i = .setCost f →
    let h : Word := (sval s.warp f.a).setWidth 32
    (s.ctx.stale h = true → exec i s = .next (s.raiseW 0x18 (BitVec.ofNat 64 h.toNat)))
    ∧ (s.ctx.stale h = false → (s.ctx.set (handleIndex h)).lost = true → i ≠ .setFree f →
      exec i s = .next (s.raiseW 0x38 (BitVec.ofNat 64 h.toNat))))
  ∧ (∀ (f : Ops) hint (s : State), s.warp.exec ≠ 0 →
    let u0 := (lane32 s.warp s.width f.a 0).toNat
    let u := if u0 = 0 then 2 ^ 32 else u0
    let faults := fun (c : Byte) (a : DWord) => exec (.setNew f hint) s = .next (s.raiseW c a)
    if hint = true ∧ 3 < (sval s.warp f.b).toNat then faults 0x03 s.warp.pc
    else (∀ j, j < s.ctx.shtn → (s.ctx.set j).v = true) ∨ s.ctx.freeGranules < (if u ≤ 4096 then 5 else 4) →
      faults 0x19 0xFFFFFFFF)
  ∧ (∀ (f : Ops) (s : State), s.warp.exec ≠ 0 →
    let h : Word := (sval s.warp f.a).setWidth 32
    let e := s.ctx.set (handleIndex h)
    let b := sval s.warp f.b
    s.ctx.stale h = false → e.lost = false →
    (maxPanes e.val.u ≤ b.toNat → exec (.setRep f) s = .next (s.raiseW 0x1A b))
    ∧ (20 < b.toNat → exec (.setCost f) s = .next (s.raiseW 0x03 s.warp.pc)))
  ∧ (∀ (f : Ops) q cmd (s : State), s.warp.exec ≠ 0 →
    let h := fun x => (sval s.warp x).setWidth 32
    let hs : List Word := h f.a :: ((if estUsesB cmd then [h f.b] else []) ++ if estUsesC cmd then [h f.c] else [])
    let faults := fun (c : Byte) (x : Word) => exec (.setEst f q cmd) s = .next (s.raiseW c (x.setWidth 64))
    match hs.find? s.ctx.stale, hs.find? (fun x => (s.ctx.set (handleIndex x)).lost) with
    | some x, _ => faults 0x18 x
    | none, some x => faults 0x38 x
    | none, none =>
      if ∃ x ∈ hs, (s.ctx.val x).u ≠ (s.ctx.val (h f.a)).u then faults 0x1A (h f.a)
      else estUsesC cmd = true → s.ownBusy (handleIndex (h f.c)) = true → exec (.setEst f q cmd) s = .next (s.stallOn .sets))
  ∧ ∀ (f : Ops) (s : State), s.warp.exec ≠ 0 →
    let h : Word := (sval s.warp f.a).setWidth 32
    let n := handleIndex h
    let e := s.ctx.set n
    s.usable h = true →
    (∃ t, exec (.setClear f) s = .next t ∧ Retires (opd f) s.warp f.s s t
      ∧ t = { s with warps := t.warps, ctxs := t.ctxs, mem := t.mem }
      ∧ s.setPut t s.wg.ctx n { e.replaced (s.ctx.setStamp + 1) (SetVal.empty e.val.u) with
        cost := addCost e.cost [(3, 4)] } 1)
    ∧ (∀ on, ∃ t w', exec (.setPin f on) s = .next t ∧ Retires (opd f) w' f.s s t ∧ Warp.onlyScalar f.d s.warp w'
      ∧ if on = true ∧ 2 ^ 20 < s.pinned e.home s.wg.ctx n + e.val.pinBytes then
          w'.gives f.d 1 ∧ t = { s with warps := t.warps }
        else w'.gives f.d 0 ∧ t = { s with warps := t.warps, ctxs := t.ctxs, mem := t.mem }
          ∧ s.setPut t s.wg.ctx n { e with pin := on } 1)
    ∧ ((sval s.warp f.b).toNat < maxPanes e.val.u →
      ∃ t w', exec (.setRep f) s = .next t ∧ Completes (opd f) w' s t ∧ Warp.onlyScalar f.d s.warp w'
        ∧ w'.gives f.d (e.repWord (sval s.warp f.b).toNat))
    ∧ ((sval s.warp f.b).toNat ≤ 20 →
      ∃ t w', exec (.setCost f) s = .next t ∧ Completes (opd f) w' s t ∧ Warp.onlyScalar f.d s.warp w'
        ∧ w'.gives f.d (Tab.get 0 (sval s.warp f.b).toNat e.cost))
    ∧ ∀ q cmd,
      let read := h :: if estUsesB cmd then [(sval s.warp f.b).setWidth 32] else []
      let dst : List Word := if estUsesC cmd then [(sval s.warp f.c).setWidth 32] else []
      (∀ x ∈ read, s.usable x = true) → (∀ x ∈ dst, s.ctx.stale x = false ∧ (s.ctx.set (handleIndex x)).lost = false
        ∧ s.ownBusy (handleIndex x) = false) →
      s.ctx.sameU (read ++ dst) = true →
      ∃ t w', exec (.setEst f q cmd) s = .next t ∧ Completes (opd f) w' s t ∧ Warp.onlyScalar f.d s.warp w'
        ∧ w'.gives f.d (BitVec.ofNat 64
          ((estPlan cmd (s.ctx.val h) (s.ctx.val ((sval s.warp f.b).setWidth 32))).quantity q))

/-- R140, R150 to R153: a bulk set instruction whose checks pass completes at issue: the command, with its handles, its object
and its reservation, joins those of the context, after the warp's own reductions have performed (R218). Else the first failing
check takes its exception: 0x12 for the object, 0x0C for SET.XCARD's result, 0x18 for a stale handle, 0x38 for a lost set, 0x1A
for universes that differ, 0x14 for an array or its first unit that does not translate, 0x19 for the reservation. The place of 0x38,
which R302 does not give, is the model's choice (log 34). -/
def Obligations.SetBulkIssue : Prop :=
  ∀ i f (b : BulkForm) (s : State), setBulkRow s i = some (f, b) → s.warp.exec ≠ 0 →
    let faults := fun (c : Byte) (n : Nat) => exec i s = .next (s.raiseW c (BitVec.ofNat 64 n))
    if objectOk s.wg b.obj (b.loc.toList.map fun l => (l, 8)) = false then faults 0x12 b.obj
    else if ∃ l ∈ b.loc, l % 8 ≠ 0 ∨ s.wg.alloc < l + 8 then faults 0x0C (b.loc.getD 0)
    else match b.hs.find? s.ctx.stale, b.hs.find? (fun h => (s.ctx.set (handleIndex h)).lost) with
    | some h, _ => faults 0x18 h.toNat
    | none, some h => faults 0x38 h.toNat
    | none, none =>
      if s.ctx.sameU b.hs = false then faults 0x1A (b.hs.headD 0).toNat
      else if b.bad = true then faults 0x14 ((b.range.head?.map fun r => r.va.toNat).getD 0)
      else match s.checkRanges s.wg.core s.wg.ctx b.range [] with
      | .wait => True
      | .bad n => faults 0x14 n
      | .ok x =>
        if b.kind.writes = true ∧ s.ctx.freeGranules < b.reserve then faults 0x19 b.d.toNat
        else
          let s1 := s.flushReds s.cur
          ∃ t, exec i s = .next t ∧ Retires (opd f) s.warp f.s s t
            ∧ t = { s1 with warps := t.warps, ctxs := t.ctxs, nextCmd := s.nextCmd + 1 } ∧ s1.otherCtxs s.wg.ctx t
            ∧ t.ctxAt s.wg.ctx = { s1.ctxAt s.wg.ctx with setCmds := (s1.ctxAt s.wg.ctx).setCmds ++
                [{ id := s.nextCmd, wg := wgOf s.cur, warp := warpNo s.cur, kind := b.kind, d := handleIndex b.d
                   a := handleIndex b.a, b := handleIndex b.b, ha := b.a, hb := b.b, obj := b.obj, xlat := x
                   reserve := b.reserve }] }

/-- R131, R134, R136, R150 to R153: a command that nothing holds back starts by taking the values its operands then have, with
their versions. One that has its operands completes, whatever their layouts: SET.UNION, SET.INTER, SET.DIFF and SET.COPY leave in
the destination the union, intersection or difference of their members, or A's; SET.IMPORT the array's keys below the universe,
with D's members unless REPL, and BOUND where a key was not below it; SET.XCARD writes the number of members; SET.EXPORT writes
that number and the members in ascending order, then 0xFFFFFFFF. It leaves the context's commands and arrives with its count. -/
def Obligations.SetBulkSteps : Prop :=
  (∀ (s : State) ctx i m, (s.ctxAt ctx).setCmds[i]? = some m → m.started = false → m.va = none → m.vb = none →
    let c := s.ctxAt ctx
    let home := c.cmdHome m
    s.sliceFrozen home = false →
    (∀ x ∈ [m.d, m.a, m.b], (c.set x).home = home ∧ s.poisonedSet ctx x = false ∧ (c.set x).lost = false) →
    (∀ k ∈ c.setCmds.eraseIdx i, ∀ x ∈ [m.d, m.a, m.b], k.started = false ∨ k.writesTo x = false) →
    (∀ k ∈ c.setCmds.take i, k.wg ≠ m.wg ∨ k.warp ≠ m.warp) →
    ∃ t, exec (.setBulkStart ctx i) s = .next t ∧ t = { s with ctxs := t.ctxs } ∧ s.otherCtxs ctx t
      ∧ t.ctxAt ctx = { c with setCmds := c.setCmds.set i { m with
          started := true
          va := if m.kind.readsA then some (c.set m.a).val else none, ra := if m.kind.readsA then (c.set m.a).vers else m.ra
          vb := if m.kind.readsB then some (c.set m.b).val else none, rb := if m.kind.readsB then (c.set m.b).vers else m.rb } })
  ∧ ∀ (s : State) ctx i m, (s.ctxAt ctx).setCmds[i]? = some m → m.started = true → m.poison = false →
    (m.kind.readsA = true → m.va.isSome = true) → (m.kind.readsB = true → m.vb.isSome = true) →
    let c := s.ctxAt ctx
    let g := s.wgAt m.wg
    let A := (m.va.map SetVal.members).getD []
    let B := (m.vb.map SetVal.members).getD []
    let u := (c.set m.d).val.u
    s.sliceFrozen (c.cmdHome m) = false → (s.coreAt g.core).latent = [] → rising A → rising B →
    (∀ k ∈ A ++ B, k < 2 ^ 32) → u ≤ 2 ^ 32 →
    (∀ op off, m.kind = .xcard op off → off + 8 ≤ m.obj ∨ m.obj + 16 ≤ off) →
    (∀ va n, m.kind = .export_ va n → oneToOne m.xlat va.toNat (8 + 4 * n)) →
    (∀ repl va n, m.kind = .import_ repl va n → s.clean m.xlat va.toNat (4 * n)) →
    ∃ t, exec (.setBulkComplete ctx i) s = .next t ∧ t = { s with ctxs := t.ctxs, mem := t.mem, cores := t.cores }
      ∧ s.otherCtxs ctx t ∧ t.ctxAt ctx = { c with
          sets := (t.ctxAt ctx).sets, setCmds := c.setCmds.eraseIdx i, setStamp := (t.ctxAt ctx).setStamp }
      ∧ (∀ j, j ≠ m.d ∨ m.kind.writes = false → ((t.ctxAt ctx).set j).val = (c.set j).val)
      ∧ s.otherCores g.core t ∧ t.coreAt g.core = { s.coreAt g.core with pad := (t.coreAt g.core).pad }
      ∧ let leaves := fun (P : Nat → Prop) (f : Nat) =>
          (∀ k, k ∈ ((t.ctxAt ctx).set m.d).val.members ↔ P k) ∧ ((t.ctxAt ctx).set m.d).lost = false
            ∧ s.arrived t g.core (g.base + m.obj) 64 f
        match m.kind with
        | .union => leaves (fun k => k ∈ A ∨ k ∈ B) 0
        | .inter => leaves (fun k => k ∈ A ∧ k ∈ B) 0
        | .diff => leaves (fun k => k ∈ A ∧ k ∉ B) 0
        | .copy => leaves (fun k => k ∈ A) 0
        | .import_ repl va n =>
          let key := fun j => leNat (s.xbytes m.xlat (va.toNat + 4 * j) 4)
          leaves (fun k => (repl = false ∧ k ∈ A) ∨ (k < u ∧ ∃ j, j < n ∧ key j = k))
            (if (List.range n).any fun j => decide (u ≤ key j) then 2 else 0)
        | .xcard op off =>
          t.padRead g.core (g.base + off) 8 = leBytes 8 (match op with
            | .inter => (A.filter fun k => decide (k ∈ B)).length
            | .union => A.length + (B.filter fun k => decide (k ∉ A)).length
            | .diff => (A.filter fun k => decide (k ∉ B)).length)
          ∧ leNat (t.padRead g.core (g.base + m.obj) 8) = arriveWord (leNat (s.padRead g.core (g.base + m.obj) 8))
              (leNat (s.padRead g.core (g.base + m.obj + 8) 8)) 8 0 % 2 ^ 64
          ∧ ∀ p, ¬(g.base + off ≤ p ∧ p < g.base + off + 8) → ¬(g.base + m.obj ≤ p ∧ p < g.base + m.obj + 8) →
              t.padRead g.core p 1 = s.padRead g.core p 1
        | .export_ va n =>
          let at_ := fun k => xkey m.xlat (va.toNat + k)
          (∀ k, k < 8 → isPeer (at_ k) = false → t.readMem (at_ k) 1 = [BitVec.ofNat 8 (A.length / 256 ^ k)])
          ∧ (∀ j k, j < n → k < 4 → isPeer (at_ (8 + 4 * j + k)) = false →
              t.readMem (at_ (8 + 4 * j + k)) 1 = [BitVec.ofNat 8 (A.getD j (2 ^ 32 - 1) / 256 ^ k)])
          ∧ s.arrived t g.core (g.base + m.obj) (8 + 4 * n) 0

/-! Control flow. -/

/-- R260, R261: a transfer that is taken to an aligned canonical target goes there, with the next instruction's address in
its link register; a misaligned target takes 0x0A and a non-canonical one 0x0B, with the target as the address; a branch that is
not taken goes on. Nothing else differs. That a branch not taken goes on whatever its target, and that 0x0A comes
before 0x0B for a target that is both misaligned and non-canonical, is the model's choice (log 28). -/
def Obligations.TransferResults : Prop :=
  ∀ i o taken target link (s : State), transferRow s.warp i = some (o, taken, target, link) →
    (taken = false → ∃ t, exec i s = .next t ∧ Completes o s.warp s t)
    ∧ (taken = true → target.toNat % 4 = 0 → canonical target = true →
      ∃ t w', exec i s = .next t ∧ s.nowAt t s.cur { completed o s.warp w' o.s with pc := target }
        ∧ t = { s with warps := t.warps }
        ∧ match link with
          | some d => Warp.onlyScalar d s.warp w' ∧ w'.gives d (s.warp.pc + BitVec.ofNat 64 o.len)
          | none => w' = s.warp)
    ∧ (taken = true → target.toNat % 4 ≠ 0 → exec i s = .next (s.raise 0x0A s.warp.exec target))
    ∧ (taken = true → target.toNat % 4 = 0 → canonical target = false → exec i s = .next (s.raise 0x0B s.warp.exec target))

/-- R272, R314, R246: NOP has no effect; ICINV, once the warp's own reductions have performed, takes every line of the warp's
context out of its core's instruction caches, and no line taken in before serves the warp again; that flush, those lines and that
stamp are the model's reading (log 5); YIELD marks the warp; SLEEP puts it to sleep for at most 2^24 clocks of its core, after which
it is ready again; both end the stint. Nothing else differs. EXIT ends the warp. R262: a BAR whose arrival is the last that its phase waits for completes, and the warp goes on. -/
def Obligations.PlainControlResults : Prop :=
  (∀ (f : Ops) (c : COps) (s : State),
    (∃ t, exec (.nop f) s = .next t ∧ Completes (opd f) s.warp s t)
    ∧ (∃ t, exec (.nopC c) s = .next t ∧ Completes (copdN c) s.warp s t)
    ∧ (∃ t, exec (.icinv f) s = .next t ∧ Retires (opd f) { s.warp with icinv := s.icinvs + 1 } f.s s t
      ∧ t = { s.flushReds s.cur with warps := t.warps, cores := t.cores, icinvs := s.icinvs + 1 } ∧ s.otherCores s.wg.core t
      ∧ t.coreAt s.wg.core = { s.core with icache := s.core.icache.filter fun l => l.ctx ≠ s.wg.ctx })
    ∧ (∃ t, exec (.yield f) s = .next t ∧ t = { s with warps := t.warps }
      ∧ Retires (opd f) { s.warp with yielded := true } true s t)
    ∧ (∃ t, exec (.yieldC c) s = .next t ∧ t = { s with warps := t.warps }
      ∧ Retires (copdN c) { s.warp with yielded := true } true s t))
  ∧ (∀ i o (s : State), (∃ f, i = .sleep f ∧ o = opd f) ∨ (∃ f, i = .sleepC f ∧ o = copdS f) →
    let n := (sval s.warp o.a).toNat
    ∃ t, exec i s = .next t ∧ t = { s with warps := t.warps } ∧ Retires o { s.warp with
      sleep := if n = 0 then none else some (s.core.clk + min n (2 ^ 24)) } true s t)
  ∧ (∀ i (s : State), (∃ f, i = .exit f) ∨ (∃ f, i = .exitC f) → ∃ t, exec i s = .next t ∧ t.warp = s.warp.ended)
  ∧ (∀ (f : Ops) (cohort : BitVec 4) (s : State),
    let e := s.wg.cohort cohort.toNat
    s.warp.run = .running → warpNo s.cur < s.wg.fp.warps →
    (e.arrived ||| BitVec.ofNat 32 (2 ^ warpNo s.cur) ||| s.exited (wgOf s.cur)) &&& e.members = e.members →
    ∃ t, exec (.bar f cohort) s = .next t ∧ t.warp.run = .running
      ∧ t.warp.pc = s.warp.pc + BitVec.ofNat 64 (opd f).len ∧ t.warp.notice = s.warp.notice.map (· + 1))
  ∧ ∀ (s : State) k c, (s.warpAt k).sleep = some c →
    ∃ t, exec (.sleepExpire k) s = .next t ∧ t = { s with warps := t.warps }
      ∧ s.nowAt t k { s.warpAt k with
        sleep := if c ≤ (s.coreAt (s.wgAt (wgOf k)).core).clk then none else some c }

/-- R244, R245, R262, R263: BAR, once the warp's own reductions have performed (R217), adds its contribution to the cohort's
payload and its bit to the arrivals and waits, or, where the phase is then complete, that phase ends: the entry starts its next
phase and every warp that waits there receives the payload and goes on, its BAR counted in the skid of a warp that has been told
to halt (R295). EXIT ends the warp and completes the phases that waited for it alone. Nothing else differs. Which order
contributions arrive in does not matter. -/
def Obligations.BarrierResults : Prop :=
  (∀ (f : Ops) (cohort : BitVec 4) (s : State),
    let k := cohort.toNat
    let n := wgOf s.cur
    let s1 := s.flushReds s.cur
    let e : Cohort := { s.wg.cohort k with
      payload := popOp (s.wg.cohort k).pop (s.wg.cohort k).payload (sval s.warp f.a)
      arrived := (s.wg.cohort k).arrived ||| BitVec.ofNat 32 (2 ^ warpNo s.cur) }
    let w := s.warp.blockedAt (.bar k f.d) (opd f).len s.iw
    let done := (e.arrived ||| s.exited n) &&& e.members = e.members
    s.warp.run = .running → warpNo s.cur < s.wg.fp.warps →
    ∃ t, exec (.bar f cohort) s = .next t ∧ t = { s1 with warps := t.warps, wgs := t.wgs } ∧ s.otherWgs n t
      ∧ t.wgAt n = { s.wg with cohorts := (t.wgAt n).cohorts }
      ∧ (∀ j, (t.wgAt n).cohort j = if j ≠ k then s.wg.cohort j else if done then e.next else e)
      ∧ t.warp = (if done then w.passed k e.payload else w)
      ∧ ∀ j, j ≠ s.cur → t.warpAt j =
          if done ∧ j ∈ s.wg.keys n then (s.warpAt j).passed k e.payload else s.warpAt j)
  ∧ (∀ i (s : State), (∃ f, i = .exit f) ∨ (∃ f, i = .exitC f) → s.wg.haltBy = none →
    let n := wgOf s.cur
    let s1 := s.setWarp s.warp.ended
    let done := fun k => k < s.wg.fp.coh ∧ (s.wg.cohort k).members.getLsbD (warpNo s.cur) = true ∧ s1.phaseDone n k
    ∃ t, exec i s = .next t ∧ t = { s with warps := t.warps, wgs := t.wgs } ∧ s.otherWgs n t
      ∧ t.wgAt n = { s.wg with cohorts := (t.wgAt n).cohorts } ∧ t.warp = s1.warp
      ∧ (∀ k, (done k → (t.wgAt n).cohort k = (s.wg.cohort k).next) ∧ (¬done k → (t.wgAt n).cohort k = s.wg.cohort k))
      ∧ ∀ j, j ≠ s.cur →
          (∀ k, j ∈ s.wg.keys n → (s.warpAt j).run.atBar = some k → done k →
            t.warpAt j = (s.warpAt j).passed k (s.wg.cohort k).payload)
          ∧ ((∀ k, j ∈ s.wg.keys n → (s.warpAt j).run.atBar = some k → ¬done k) → t.warpAt j = s.warpAt j))
  ∧ ∀ pop (p x y : DWord), pop ≤ 10 → popOp pop (popOp pop p x) y = popOp pop (popOp pop p y) x
    ∧ (1 ≤ pop → pop ≤ 8 → popOp pop (popIdentity pop) x = x)

/-- R264 to R267, R291: AWAIT, BWAIT and JOIN whose checks pass complete where the phase differs, the bit is set, or the counter
is at or below 0, and else the warp waits at the instruction, or is at it again at once where an asynchronous entry is queued;
their stint ends either way. A waiting warp that looks again goes
on or waits on; one at LDF, or whose word can no longer be read, executes the instruction that it fetched afresh (R13). A wrong
object or phase takes 0x12. That a warp at LDF may look at any time is the model's choice (log 7). -/
def Obligations.WaitResults : Prop :=
  (∀ (f : Ops) (s : State),
    let off := sval s.warp f.a
    let ph := sval s.warp f.b
    let ok := off.toNat % 16 = 0 ∧ off.toNat < 2 ^ 32 ∧ off.toNat + 16 ≤ s.wg.alloc ∧ ph.toNat ≤ 1
    (¬ok → exec (.await f) s = .next (s.raise 0x12 s.warp.exec off))
    ∧ (ok → s.core.latent = [] →
      ∃ t, exec (.await f) s = .next t ∧ t = { s with warps := t.warps }
        ∧ if s.phaseAt s.wg off.toNat ≠ (ph = 1) then Retires (opd f) s.warp true s t
          else s.nowAt t s.cur (s.warp.waitsAt (.await off (ph = 1)) (opd f).len s.iw)))
  ∧ (∀ (f : Ops) (s : State) key lf,
    let a := sval s.warp f.a
    let i := sval s.warp f.b
    let va := a + 8 * (i >>> (6 : Nat))
    let s1 := s.flushOver s.cur [(key, 8)]
    s.xlate s.wg.core s.wg.ctx va 8 .read = .ok key lf → s1.xlate s.wg.core s.wg.ctx va 8 .read = .ok key lf → s.linePoisoned key = false →
    ∃ t, exec (.bwait f) s = .next t ∧ t = { s1 with warps := t.warps }
      ∧ if (leNat (s1.readMem key 8)).testBit (i.toNat % 64) then Retires (opd f) s.warp true s t
        else s.nowAt t s.cur (s.warp.waitsAt (.bwait a i) (opd f).len s.iw))
  ∧ (∀ (f : Ops) (s : State) key lf,
    let a := sval s.warp f.a
    let s1 := s.flushOver s.cur [(key, 8)]
    s.xlate s.wg.core s.wg.ctx a 8 .read = .ok key lf → s1.xlate s.wg.core s.wg.ctx a 8 .read = .ok key lf → s.linePoisoned key = false →
    ∃ t, exec (.join f) s = .next t ∧ t = { s1 with warps := t.warps }
      ∧ if (BitVec.ofNat 64 (leNat (s1.readMem key 8))).toInt ≤ 0 then Retires (opd f) s.warp true s t
        else s.nowAt t s.cur (s.warp.waitsAt (.join a) (opd f).len s.iw))
  ∧ ∀ (s : State) k, (s.wgAt (wgOf k)).place = .resident →
    let w := s.warpAt k
    let g := s.wgAt (wgOf k)
    let on := w.proceeds
    (∀ off ph, w.run = .await off ph → (s.coreAt g.core).latent = [] →
      ∃ t, exec (.waitWake k) s = .next t ∧ t = { s with warps := t.warps }
        ∧ s.nowAt t k (if s.phaseAt g off.toNat ≠ ph then on else w))
    ∧ (w.run = .ldf → ∃ t, exec (.waitWake k) s = .next t ∧ t = { s with warps := t.warps }
        ∧ s.nowAt t k w.afresh)
    ∧ (∀ a c, s.xlate g.core g.ctx a 8 .read = .bad c →
      (w.run = .join a ∨ ∃ b i, w.run = .bwait b i ∧ a = b + 8 * (i >>> (6 : Nat))) →
      ∃ t, exec (.waitWake k) s = .next t ∧ t = { s with warps := t.warps } ∧ s.nowAt t k w.afresh)
    ∧ ∀ a key lf, s.xlate g.core g.ctx a 8 .read = .ok key lf → s.linePoisoned key = false →
      let s1 := s.flushOver k [(key, 8)]
      s1.xlate g.core g.ctx a 8 .read = .ok key lf →
      (∀ b i, w.run = .bwait b i → a = b + 8 * (i >>> (6 : Nat)) →
        ∃ t, exec (.waitWake k) s = .next t ∧ t = { s1 with warps := t.warps }
          ∧ s.nowAt t k (if (leNat (s1.readMem key 8)).testBit (i.toNat % 64) then on else w))
      ∧ (w.run = .join a →
        ∃ t, exec (.waitWake k) s = .next t ∧ t = { s1 with warps := t.warps }
          ∧ s.nowAt t k (if (BitVec.ofNat 64 (leNat (s1.readMem key 8))).toInt ≤ 0 then on else w))

/-- R268, R269, R273, R249: LAUNCH below depth 4 whose record passes its checks pushes it and adds 1 to its counter, whose
place is that of the checks, or, at a queue of four, the warp waits with the entry, which it pushes, counting likewise, once there
is room, or abandons the wait at once for an asynchronous entry that is queued (R291); an entry that is 256 clocks old, 256 clocks after the last, becomes a runnable grid with the next sequence number, one
deeper, and the saved queue of an evicted workgroup follows (R281); of a stopped grid none is taken, and
the clocks that pass meanwhile do not count for its queues (R354). That a counter's place is found at issue, and again at the
push of a waiting LAUNCH, is the model's choice (log 21), and so is what makes a grid stopped (log 33). -/
def Obligations.LaunchResults : Prop :=
  (∀ (f : Ops) (s : State) e counter, s.wg.depth ≠ 4 →
    let a := sval s.warp f.a
    let n := wgOf s.cur
    let s1 := s.flushReds s.cur
    s1.launchCheck s.wg.core s.wg.ctx a s.wg.prio = .ok e counter →
    (e.fp.counter = 0 → counter = none)
    ∧ (e.fp.counter ≠ 0 → ∃ key lf, s1.xlate s.wg.core s.wg.ctx e.fp.counter 8 .rw = .ok key lf ∧ counter = some key)
    ∧ (s.wg.launchQ.length < 4 →
      ∃ t, exec (.launch f) s = .next t ∧ Retires (opd f) s.warp true s t
        ∧ t = { s1 with warps := t.warps, wgs := t.wgs, mem := t.mem } ∧ s1.counted t counter
        ∧ s.otherWgs n t ∧ t.wgAt n = { s.wg with launchQ := s.wg.launchQ ++ [{ e with push := s.core.clk }] })
    ∧ (4 ≤ s.wg.launchQ.length →
      ∃ t, exec (.launch f) s = .next t ∧ t = { s1 with warps := t.warps }
        ∧ s.nowAt t s.cur (s.warp.waitsAt (.launch e a) (opd f).len s.iw)))
  ∧ (∀ (f : Ops) (s : State), s.wg.depth = 4 → exec (.launch f) s = .next (s.raise 0x20 s.warp.exec (sval s.warp f.a)))
  ∧ (∀ (s : State) k e a counter, (s.warpAt k).run = .launch e a → (s.wgAt (wgOf k)).place = .resident →
    (s.wgAt (wgOf k)).launchQ.length < 4 →
    let w := s.warpAt k
    let g := s.wgAt (wgOf k)
    let s1 := s.flushReds k
    (if e.fp.counter = 0 then counter = none else ∃ key, s1.signalTo g.ctx e.fp.counter = .key key ∧ counter = some key) →
    ∃ t, exec (.launchPush k) s = .next t ∧ t = { s1 with warps := t.warps, wgs := t.wgs, mem := t.mem }
      ∧ s1.counted t counter ∧ s.otherWgs (wgOf k) t
      ∧ t.wgAt (wgOf k) = { g with launchQ := g.launchQ ++ [{ e with push := (s.coreAt g.core).clk }] }
      ∧ s.nowAt t k w.proceeds)
  ∧ (∀ (s : State) n, s.gridStopped (s.wgAt n).seq = true → exec (.takeLaunchEntry n) s = .next s)
  ∧ (∀ (s : State) core m r, s.agenda = .clocks core m :: r → s.frozen = false → s.inReplay = false → core < 256 →
    ∃ t, step s = .next t ∧ t = { s with agenda := r, wgs := t.wgs, cores := t.cores } ∧ s.otherCores core t
      ∧ t.coreAt core = { s.coreAt core with clk := (s.coreAt core).clk + m }
      ∧ ∀ n, let g := s.wgAt n
        t.wgAt n = if g.core = core ∧ s.gridStopped g.seq = true then { g with
            launchQ := g.launchQ.map (fun e => { e with push := e.push + m }), lastTake := g.lastTake.map (· + m) } else g)
  ∧ ∀ (s : State) n e r, (s.wgAt n).launchQ = e :: r → (s.ctxAt (s.wgAt n).ctx).preempt = none →
    s.gridStopped (s.wgAt n).seq = false →
    let g := s.wgAt n
    let now := (s.coreAt g.core).clk
    e.push + 256 ≤ now → (∀ c ∈ g.lastTake, c + 256 ≤ now) →
    ∃ t, exec (.takeLaunchEntry n) s = .next t
      ∧ t = { s with wgs := t.wgs, grids := t.grids, nextSeq := s.nextSeq + 1, mem := t.mem } ∧ s.otherWgs n t
      ∧ t.wgAt n = { g with launchQ := r, lastTake := some now }
      ∧ t.gridAt s.nextSeq = { ctx := g.ctx, depth := g.depth + 1, prio := e.fp.prio, fp := e.fp, parent := some g.seq }
      ∧ (∀ q, q ≠ s.nextSeq → t.gridAt q = s.gridAt q)
      ∧ if g.place = .evicted ∨ g.place = .resumable then
          t.readMem (s.areaKey g + 27) 1 = leBytes 1 r.length ∧ t.readMem (s.areaKey g + 64) 768 = (t.wgAt n).queueBytes
            ∧ ∀ a, a ≠ s.areaKey g + 27 → ¬(s.areaKey g + 64 ≤ a ∧ a < s.areaKey g + 832) → t.readMem a 1 = s.readMem a 1
        else t.mem = s.mem

/-! Exceptions. -/

/-- R12, R26, R27, R286 to R289, R292, R293, R298, R300, R309: TRAP, BKPT and a word that traps, in a warp that nothing keeps
from its handler, take the exception: the vector entry's policy, handle or halt group with every sibling stopped; the frame,
tpc, texec, hs0, hs1, exec, the mode and the PC. Only a halt group has a broadcast. A policy of kill, or a handler address of
0, writes a KILL record and kills the grid: it is marked killed and no warp of the workgroup goes on. A failed read of the
vector entry, every sibling stopped, is a double fault whose second cause is the read's: the warp stops, its workgroup stays
halted, and the DOUBLE and HALTED records are written. Nothing else differs. That PC2 is then the trap's pc and ADDR2 the vector
entry's address is the model's choice (log 29). -/
def Obligations.TakingAnException : Prop :=
  ∀ i cause addr (s : State), trapRow s.warp i = some (cause, addr) → s.deliverable s.cur cause →
    let w := s.warp
    let g := s.wg
    let n := wgOf s.cur
    let e : TrapEntry := { cause := cause, pc := w.pc, addr := addr, lanes := w.exec, exec := w.exec, iw := s.iw }
    (∀ vec, s.readVector s.cur cause = .ok vec → 4 ≤ vec.toNat →
      let pol := policyOf vec cause
      pol ≠ .kill → (pol = .haltGroup → s.siblingsStopped s.cur = true) →
      ∃ t, exec i s = .next t ∧ t = { s with warps := t.warps, wgs := t.wgs, cores := t.cores }
        ∧ s.entered t s.cur e w.trapQ vec ∧ s.otherWgs n t ∧ t.wg = { g with haltBy := broadcastOf pol s.cur e vec })
    ∧ (∀ vec, s.readVector s.cur cause = .ok vec → policyOf vec cause = .kill ∨ vec.toNat < 4 → s.hasWg n = true →
      Tab.wf {} s.wgs = true → g.place = .resident → warpNo s.cur < g.fp.warps → (∃ p ∈ s.grids, p.1 = g.seq) →
      s.ringRoom g.ctx →
      ∃ t, exec i s = .next t
        ∧ t = { s with
            warps := t.warps, wgs := t.wgs, cores := t.cores, grids := t.grids, ctxs := t.ctxs, mem := t.mem
            msix := t.msix, msixPending := t.msixPending }
        ∧ s.recorded t g.ctx { kind := 2, cause1 := cause.toNat, warp := warpNo s.cur, unit := g.core, seq := g.seq
                               index := g.index, pc1 := w.pc, addr1 := addr }
        ∧ (t.gridAt g.seq).killed = true ∧ ∀ k ∈ g.keys n, (t.warpAt k).run.live = false)
    ∧ ∀ c, s.readVector s.cur cause = .bad c → s.siblingsStopped s.cur = true → s.ringRoomTwo g.ctx →
      let h : HaltBy := ⟨warpNo s.cur, e, none, some (c, w.pc, w.tvb + 8 * cause.setWidth 64)⟩
      ∃ t, exec i s = .next t
        ∧ t = { s with
            warps := t.warps, wgs := t.wgs, ctxs := t.ctxs, mem := t.mem, msix := t.msix, msixPending := t.msixPending }
        ∧ s.nowAt t s.cur { w.halted none with trapQ := e :: w.trapQ }
        ∧ s.otherWgs n t ∧ t.wg = { g with dead := true, reported := true, haltBy := some h } ∧ h.recorded g s t

/-- R289, R296, R310: RETT to an aligned canonical tpc, with no entry queued, returns: normal mode, exec from texec, the PC
from tpc, and the warps that this warp's broadcast halted resume where they stopped, at their BAR if they waited there. An
asynchronous entry that is queued is delivered before any instruction there. A misaligned tpc takes 0x0A and a non-canonical
one 0x0B. Nothing else differs. -/
def Obligations.ReturnFromException : Prop :=
  ∀ (f : Ops) (s : State),
    let w := s.warp
    let n := wgOf s.cur
    (w.tpc.toNat % 4 = 0 → canonical w.tpc = true → w.trapQ = [] →
      ∃ t, exec (.rett f) s = .next t ∧ t = { s with warps := t.warps, wgs := t.wgs } ∧ s.otherWgs n t
        ∧ t.warp = { w with handler := false, exec := w.texec, pc := w.tpc, handling := none, stint := none, stall := none
                            fetched := [], rob := [], held := none, run := .running, notice := w.notice.map (· + 1) }
        ∧ (∀ h, s.wg.haltBy = some h → h.warp = warpNo s.cur →
            t.wgAt n = { s.wg with haltBy := none, reported := false }
            ∧ ∀ k, k ≠ s.cur → t.warpAt k = if k ∈ s.wg.keys n then (s.warpAt k).released else s.warpAt k)
        ∧ ((∀ h, s.wg.haltBy = some h → h.warp ≠ warpNo s.cur) →
            t.wgAt n = s.wg ∧ ∀ k, k ≠ s.cur → t.warpAt k = s.warpAt k))
    ∧ (w.tpc.toNat % 4 = 0 → canonical w.tpc = true → ∀ e rest vec,
      let r := s.setWarp { w with handler := false, exec := w.texec, pc := w.tpc, handling := none, stint := none, stall := none
                                  fetched := [], rob := [], held := none, run := .running }
      w.trapQ = e :: rest → e.async = true → r.deliverable s.cur e.cause → r.readVector s.cur e.cause = .ok vec →
      4 ≤ vec.toNat → policyOf vec e.cause = .handle →
      ∃ t, exec (.rett f) s = .next t ∧ t = { s with warps := t.warps, cores := t.cores }
        ∧ r.entered t s.cur { e with pc := w.tpc, exec := w.texec } rest vec)
    ∧ (w.tpc.toNat % 4 ≠ 0 → exec (.rett f) s = .next (s.raise 0x0A w.exec w.tpc))
    ∧ (w.tpc.toNat % 4 = 0 → canonical w.tpc = false → exec (.rett f) s = .next (s.raise 0x0B w.exec w.tpc))

/-- R311, R312, R313: SYSR gives D the register; SYSW writes a legal value to fmode, tvb, tpc or texec and takes 0x03 else;
MOVFA and MOVTA below the kernel's register count move one whole register, and take 0x03 with the index else. Nothing else
differs. -/
def Obligations.SystemRegisters : Prop :=
  (∀ (f : Ops) r (s : State), ∃ t w', exec (.sysr f r) s = .next t ∧ Completes (opd f) w' s t
    ∧ Warp.onlyScalar f.d s.warp w' ∧ w'.gives f.d (s.sysReg r))
  ∧ (∀ (f : Ops) r (s : State),
    let v := sval s.warp f.a
    ((sysWritten s.warp s.width r v).2 →
      ∃ t, exec (.sysw f r) s = .next t ∧ Completes (opd f) (sysWritten s.warp s.width r v).1 s t)
    ∧ (¬(sysWritten s.warp s.width r v).2 → exec (.sysw f r) s = .next (s.raise 0x03 s.warp.exec s.warp.pc)))
  ∧ ∀ (f : Ops) (s : State),
    let w := s.warp
    let i := (sval w f.a).toNat % 2 ^ 32
    let b : Reg := BitVec.ofNat 6 (numOf f.b)
    (i < s.wg.fp.sregs →
      (∃ t w', exec (.movfa f true) s = .next t ∧ Completes (opd f) w' s t ∧ Warp.onlyScalar f.d w w'
        ∧ w'.gives f.d (archS w i))
      ∧ ∃ t w', exec (.movta f true) s = .next t ∧ Completes (opd f) w' s t ∧ w' = { w with s := w'.s }
        ∧ ∀ j, archS w' j = if j = i ∧ i ≠ 0 then readS w b else archS w j)
    ∧ (i < s.wg.fp.vregs →
      (∃ t w', exec (.movfa f false) s = .next t ∧ Completes (opd f) w' s t ∧ Warp.onlyVector [f.d] w w'
        ∧ readV w' f.d = archV w i)
      ∧ ∃ t w', exec (.movta f false) s = .next t ∧ Completes (opd f) w' s t ∧ w' = { w with v := w'.v }
        ∧ ∀ j, archV w' j = if j = i then readV w b else archV w j)
    ∧ ∀ cls, (if cls then s.wg.fp.sregs else s.wg.fp.vregs) ≤ i →
      exec (.movfa f cls) s = .next (s.raise 0x03 w.exec (BitVec.ofNat 64 i))
        ∧ exec (.movta f cls) s = .next (s.raise 0x03 w.exec (BitVec.ofNat 64 i))

/-- R289 to R292, R295, R296, R298, R300: a warp told to halt stops, with its halt record, when nothing dispatched is left, at
its 32nd instruction or at a wait before dispatch; the last of its workgroup to stop brings the HALTED report, after a double fault behind the
DOUBLE record. An asynchronous event enters the queue, or sets OVF at seven; a queued one is delivered at a stint boundary, with
that boundary's PC. A fault in handler mode is a double fault: the warp stops, its siblings are told to halt, the records follow
once all have stopped, at once where they have, and the workgroup stays halted. Of a fault that a told warp raises the
cause goes to OWN. That QDEPTH of a halt record counts the queue's entries, and that a told warp stops at an instruction that
waits before its dispatch, is the model's choice (log 28); so is the reorder buffer's part in the stop (log 31). -/
def Obligations.HaltAndDelivery : Prop :=
  (∀ (s : State) k n, (s.warpAt k).notice = some n →
    let w := s.warpAt k
    let g := s.wgAt (wgOf k)
    let p := g.base + g.frame (warpNo k) + 64
    let bar := match w.run with | .bar c d => some (c, d) | _ => none
    let record := fun (t : State) (own : Byte) =>
      t.padRead g.core p 64 = frameBytes 0x30 (if bar.isSome then 4 else 0) n w.trapQ.length own w.pc [] w.exec 0 0 0
        ∧ (∀ q, ¬(p ≤ q ∧ q < p + 64) → t.padRead g.core q 1 = s.padRead g.core q 1) ∧ s.otherCores g.core t
    let stopped := fun t : State => s.nowAt t k { w.halted bar with own := 0 } ∧ record t 0
    ((w.stint = none ∧ w.rob = [] ∨ 32 ≤ n ∨ w.stall ≠ none ∧ w.rob = [] ∨ w.run ≠ .running) →
      (s.siblingsStopped k = false →
        ∃ t, exec (.siblingHaltStop k) s = .next t ∧ t = { s with warps := t.warps, cores := t.cores } ∧ stopped t)
      ∧ ∀ h, s.siblingsStopped k = true → g.haltBy = some h → g.reported = false → s.ringRoomTwo g.ctx →
        ∃ t, exec (.siblingHaltStop k) s = .next t
          ∧ t = { s with
              warps := t.warps, cores := t.cores, wgs := t.wgs, ctxs := t.ctxs, mem := t.mem, msix := t.msix
              msixPending := t.msixPending }
          ∧ stopped t ∧ s.otherWgs (wgOf k) t ∧ t.wgAt (wgOf k) = { g with reported := true } ∧ h.recorded g s t)
    ∧ ∀ i cause addr, k = s.cur → trapRow w i = some (cause, addr) → s.siblingsStopped k = false →
      ∃ t, exec i s = .next t ∧ t = { s with warps := t.warps, cores := t.cores }
        ∧ s.nowAt t k { w.halted bar with own := cause } ∧ record t cause)
  ∧ (∀ (s : State) k cause detail, cause = 0x28 ∨ cause = 0x39 → s.hasWg (wgOf k) = true →
    (s.wgAt (wgOf k)).place = .resident → warpNo k < (s.wgAt (wgOf k)).fp.warps → (s.warpAt k).run ≠ .exited →
    let w := s.warpAt k
    ∃ t, exec (.asyncTrapEvent k cause detail) s = .next t ∧ t = { s with warps := t.warps }
      ∧ s.nowAt t k (if (w.trapQ.filter (·.async)).length < 7 then w.reached cause detail (s.wgAt (wgOf k)).full
                     else { w with ovf := true }))
  ∧ (∀ (s : State) k e rest vec, (s.wgAt (wgOf k)).place = .resident → (s.warpAt k).trapQ = e :: rest → e.async = true →
    s.deliverable k e.cause → (s.warpAt k).sleep = none → (s.warpAt k).atStintStart → s.readVector k e.cause = .ok vec → policyOf vec e.cause = .handle →
    (4 ≤ vec.toNat →
      ∃ t, exec (.trapDeliver k) s = .next t ∧ t = { s with warps := t.warps, cores := t.cores }
        ∧ s.entered t k { e with pc := (s.warpAt k).pc, exec := (s.warpAt k).exec } rest vec)
    ∧ (vec.toNat < 4 → e.cause = 0x28 ∨ e.cause = 0x39 →
      ∃ t, exec (.trapDeliver k) s = .next t ∧ t = { s with warps := t.warps }
        ∧ s.nowAt t k { s.warpAt k with
            trapQ := rest, stall := if (s.warpAt k).stall = some .migrate then none else (s.warpAt k).stall }))
  ∧ ∀ i cause addr (s : State) e0, trapRow s.warp i = some (cause, addr) → s.warp.handler = true → s.warp.notice = none →
    s.warp.handling = some e0 →
    let w := s.warp
    let n := wgOf s.cur
    let h : HaltBy := ⟨warpNo s.cur, e0, none, some (cause.toNat, w.pc, addr)⟩
    (s.siblingsStopped s.cur = false →
      (∀ k ∈ s.wg.keys n, k ≠ s.cur → (s.warpAt k).run = .running ∧ (s.warpAt k).raised = none ∨ (s.warpAt k).run.live = false) →
      ∃ t, exec i s = .next t ∧ t = { s with warps := t.warps, wgs := t.wgs } ∧ t.warp = w.halted none
        ∧ (∀ k, k ≠ s.cur → t.warpAt k =
            if k ∈ s.wg.keys n ∧ (s.warpAt k).run = .running ∧ (s.warpAt k).notice = none
            then { s.warpAt k with notice := some 0 } else s.warpAt k)
        ∧ s.otherWgs n t ∧ t.wg = { s.wg with dead := true, reported := false, haltBy := some h })
    ∧ (s.siblingsStopped s.cur = true → s.ringRoomTwo s.wg.ctx →
      ∃ t, exec i s = .next t
        ∧ t = { s with
            warps := t.warps, wgs := t.wgs, ctxs := t.ctxs, mem := t.mem, msix := t.msix, msixPending := t.msixPending }
        ∧ s.nowAt t s.cur (w.halted none) ∧ s.otherWgs n t
        ∧ t.wg = { s.wg with dead := true, reported := true, haltBy := some h } ∧ h.recorded s.wg s t)

/-! Translation. -/

/-- R37, R40 to R44: a walk that ends in a leaf which some access may use is cached, and the next access of the page hits; one
that ends in no leaf, or in one that no access may use, caches nothing. A warp that waits for a migration walks again. INVAL
drops every cached translation it covers, waits for the commands that hold one and for the LDFs in flight, which perform under
theirs, and arrives. ZMAP zeroes the frames, then writes the entries, then arrives; a command that fails its checks, and a
reserved one, arrives with BOUND. These are the model's choice: that a walk fills the core's and the die's cache at once, and
that a cached run serves all of its pages (log 6); and by log 28, that a command whose object lies in no scratchpad completes
without an arrival; that INVAL_COMPLETE waits for the context's reductions too; that `zmapOk` is false, and the ZMAP arrives with
BOUND, also for a template with V = 0, for a later page past the end of the tier or of the peer's region, and in a context
without a descriptor; that `XFields.ok` is false, and the command arrives with BOUND, also for a CTX above 4,095 and a CORE or
LOFF outside its limits; and that ZMAP's second walk and its writes go over entries that have become V = 1 since the first. -/
def Obligations.TranslationSteps : Prop :=
  (∀ (s : State) core ctx va l, core < 256 → (s.ctxAt ctx).registered = true → canonical va = true →
    s.tlbHit core ctx va.toNat = none →
    s.walk (s.ctxAt ctx) va.toNat = .leaf l → (∃ k : Acc, l.permits k = true) →
    ∃ t, exec (.pageWalkStart core ctx va) s = .next t ∧ t = { s with tlb := t.tlb } ∧ t.tlbHit core ctx va.toNat = some l)
  ∧ (∀ (s : State) core ctx va,
    (∀ l, s.walk (s.ctxAt ctx) va.toNat = .leaf l → ∀ k : Acc, l.permits k = false) →
    exec (.pageWalkStart core ctx va) s = .next s)
  ∧ (∀ (s : State) k, (s.warpAt k).stall = some .migrate →
    ∃ t, exec (.translationRewalk k) s = .next t ∧ t = { s with warps := t.warps }
      ∧ s.nowAt t k { s.warpAt k with stall := none })
  ∧ (∀ (s : State) b r, s.inval = none → s.zmap = none → s.xlq = b :: r →
    let x := xFields b
    (x.ok = true → x.kind = 0 →
      ∃ t ids, exec .inval s = .next t ∧ t = { s with tlb := t.tlb, inval := some (b, ids), xlq := r }
        ∧ (∀ e, e ∈ t.tlb ↔ e ∈ s.tlb ∧ x.coversPage e = false)
        ∧ ∀ id, id ∈ ids ↔ ∃ l, (id, x.ctx, l) ∈ s.commands ∧ ∃ u ∈ l, x.covers u.unit = true)
    ∧ (x.ok = true → x.kind = 1 → s.zmapOk x = true →
      let lo := memKey (bits x.template.toNat 7 6) (bits x.template.toNat 51 15 * 2 ^ 15)
      ∃ t, exec .zmap s = .next t ∧ t = { s with mem := t.mem, linePoison := t.linePoison, zmap := some b, xlq := r }
        ∧ (∀ a, t.readMem a 1 = if lo ≤ a ∧ a < lo + x.count * 2 ^ 19 then [0] else s.readMem a 1)
        ∧ ∀ n, n ∈ t.linePoison ↔ n ∈ s.linePoison ∧ ¬(lo ≤ 64 * n ∧ 64 * n < lo + x.count * 2 ^ 19))
    ∧ (x.ok = true → x.kind = 1 → s.zmapOk x = false →
      ∃ t, exec .zmap s = .next t ∧ t = { s with cores := t.cores, xlq := r } ∧ s.xArrived t x 2)
    ∧ (x.ok = false →
      ∃ t, exec .translationCommandReserved s = .next t ∧ t = { s with cores := t.cores, xlq := r } ∧ s.xArrived t x 2))
  ∧ (∀ (s : State) n g k h, (n, g) ∈ s.wgs → g.place = .resident → k ∈ g.keys n → (s.warpAt k).held = some h →
    ∃ l, (h.id, g.ctx, l) ∈ s.commands ∧ l.map Xlat.unit = h.units.map Prod.fst)
  ∧ (∀ (s : State) va n a h l, s.warp.held = some h → h.units.find? (fun u => u.1 = va.toNat / 2 ^ 19) = some l →
    canonical va = true → va.toNat % n = 0 → l.2.permits a = true → s.xlateW va n a = .ok (l.2.key va.toNat) l.2)
  ∧ (∀ (s : State) b ids, s.inval = some (b, ids) → (∀ c ∈ s.commands, c.1 ∉ ids) →
    (∀ m ∈ s.reds, (s.wgAt m.wg).ctx ≠ (xFields b).ctx) →
    ∃ t, exec .invalComplete s = .next t ∧ t = { s with cores := t.cores, inval := none } ∧ s.xArrived t (xFields b) 0)
  ∧ ∀ (s : State) b table, s.zmap = some b → s.zmapTable (xFields b) = some table →
    let x := xFields b
    let first := table + 8 * bits x.va.toNat 30 19
    ∃ t, exec .zmapWriteEntries s = .next t ∧ t = { s with mem := t.mem, cores := t.cores, zmap := none }
      ∧ (∀ i, i < x.count → leNat (t.readMem (first + 8 * i) 8) = x.leaf i % 2 ^ 64)
      ∧ (∀ a, ¬(first ≤ a ∧ a < first + 8 * x.count) → t.readMem a 1 = s.readMem a 1) ∧ s.xArrived t x 0

/-! Scheduling. -/

/-- R248 to R250, R253, R254, R244, R257, R270, R271, R295, R296, R369, R370: arbitration binds a ready warp of the highest priority,
the last one while it may go on and else the oldest, and takes the mark of YIELD from the slot's warps; a warp with 40 or more of its
48 reorder-buffer entries occupied, with a blocking instruction among them, asleep, blocked, stopped, exited or told to halt is not
ready. The scheduler places the next workgroup of the first grid where it fits: its cohorts and warps are at their start and its
scratchpad is zero. A workgroup whose warps have all exited finishes, sets its bit, and after its grid's last exit 1 is
subtracted from the counter; one that was reported halted stays. Each word waits for its own walk: that the exit waits with its
bit's word, and that a subtraction left waiting is made when the step is taken again, is the model's choice (log 21). -/
def Obligations.SchedulingSteps : Prop :=
  (∀ (s : State) core slot, (∀ p ∈ s.placedWarps core, p.2.slot = slot → p.2.stint = none) → s.readyIn core slot ≠ [] →
    let sl : Slot := Tab.get {} slot (s.coreAt core).slots
    let top := s.topIn core slot
    ∃ t k, exec (.arbitrate core slot) s = .next t ∧ k ∈ top
      ∧ (∀ l, sl.last = some l → l ∈ top →
          (sl.k < 16 ∧ (s.warpAt l).yielded = false ∨ ∀ j ∈ top, j = l) → k = l)
      ∧ (∀ l, sl.last = some l → l ∈ top → 16 ≤ sl.k ∨ (s.warpAt l).yielded = true → (∃ j ∈ top, j ≠ l) →
          s.oldestOf (top.filter fun j => j ≠ l) k)
      ∧ ((∀ l, sl.last = some l → l ∉ top) → s.oldestOf top k)
      ∧ t = { s with warps := t.warps, cores := t.cores } ∧ s.otherCores core t
      ∧ t.coreAt core = { s.coreAt core with slots := (t.coreAt core).slots }
      ∧ (∀ i, Tab.get {} i (t.coreAt core).slots = if i ≠ slot then Tab.get {} i (s.coreAt core).slots else
          { last := some k, k := if ∀ j ∈ top, j = k then 0 else if sl.last = some k then sl.k + 1 else 1 })
      ∧ t.warpAt k = { s.warpAt k with stint := some 0, yielded := false }
      ∧ ∀ j, j ≠ k → t.warpAt j =
          if ∃ p ∈ s.placedWarps core, p.1 = j ∧ p.2.slot = slot then { s.warpAt j with yielded := false } else s.warpAt j)
  ∧ (∀ w : Warp, w.ready = true ↔ w.run = .running ∧ w.sleep = none ∧ w.notice = none ∧ w.rob.length < 40
      ∧ ∀ e ∈ w.rob, e.blocks = false)
  ∧ (∀ (s : State) core slot, s.readyIn core slot = [] → exec (.arbitrate core slot) s = .next s)
  ∧ (∀ l p, firstGrid l = some p → p ∈ l ∧ ∀ r ∈ l, r.2.prio < p.2.prio ∨ r.2.prio = p.2.prio ∧ p.1 ≤ r.1)
  ∧ (∀ (s : State) core f owner base slots, s.fits core f = some (owner, base, slots) →
    owner < 32 ∧ slots.length = f.warps ∧ base % 1024 = 0 ∧ base + allocSize f.loc f.warps ≤ 2 ^ 20
      ∧ ∀ g ∈ s.onCore core, g.owner ≠ owner ∧ (base + allocSize f.loc f.warps ≤ g.base ∨ g.base + g.alloc ≤ base))
  ∧ (∀ (s : State) die q gr core owner base slots, die < 4 → firstGrid (s.waiting die) = some (q, gr) → s.gridAt q = gr →
    s.resumable q = none → s.findCore die gr.fp = some (core, owner, base, slots) →
    let n := s.nextWg
    let f := gr.fp
    ∃ t, exec (.placeWorkgroup die) s = .next t
      ∧ t = { s with nextWg := n + 1, wgs := t.wgs, grids := t.grids, warps := t.warps, cores := t.cores, dies := t.dies }
      ∧ s.otherWgs n t
      ∧ t.wgAt n = { seq := q, ctx := gr.ctx, index := gr.next, fp := f, prio := gr.prio, depth := gr.depth, core := core
                     owner := owner, base := base, alloc := allocSize f.loc f.warps, cohorts := (t.wgAt n).cohorts }
      ∧ (∀ k, k < f.coh → (t.wgAt n).cohort k =
          { members := (f.cohort k).1, pop := (f.cohort k).2, payload := popIdentity (f.cohort k).2 })
      ∧ (∀ p, t.gridAt p = if p = q then { gr with next := gr.next + 1 } else s.gridAt p)
      ∧ (∀ j, j < f.warps →
          let w := t.warpAt (32 * n + j)
          w = { exec := wmask f.width, pc := f.entry, tvb := (s.ctxAt gr.ctx).tvb, s := w.s
                trapQ := if gr.stopAtEntry then [{ cause := 0x28, pc := 0, async := true }] else []
                slot := slots.getD j 0, wctx := w.wctx }
          ∧ readS w 1 = f.args ∧ readS w 2 = BitVec.ofNat 64 gr.next ∧ readS w 3 = BitVec.ofNat 64 j
          ∧ readS w 4 = BitVec.ofNat 64 f.grid ∧ ∀ r : Reg, 5 ≤ r.toNat → readS w r = 0)
      ∧ (∀ k, (∀ j, j < f.warps → k ≠ 32 * n + j) → t.warpAt k = s.warpAt k)
      ∧ s.otherCores core t
      ∧ (∀ p, t.padRead core p 1 = if base ≤ p ∧ p < base + allocSize f.loc f.warps then [0] else s.padRead core p 1)
      ∧ t.dieAt die = { s.dieAt die with lastCore := core % 64 })
  ∧ (∀ (s : State) n, (s.wgAt n).reported = true → (s.gridAt (s.wgAt n).seq).killed = false →
    exec (.workgroupExitFinish n) s = .next s)
  ∧ (∀ (s : State) n, s.hasWg n = true → (s.wgAt n).place = .resident → s.outstanding n = false → (s.wgAt n).launchQ = [] →
    (∀ k ∈ (s.wgAt n).keys n, (s.warpAt k).run = .exited) → (s.gridAt (s.wgAt n).seq).killed = false →
    (s.wgAt n).reported = false →
    let g := s.wgAt n
    let gr := s.gridAt g.seq
    let last := gr.finished + 1 = gr.fp.grid
    let counter : DWord := if last then g.fp.counter else 0
    let gone := fun (owes : Bool) (t : State) => s.otherWgs n t ∧ t.wgAt n = { g with place := .finished }
      ∧ ∀ q, t.gridAt q = if q = g.seq then { gr with finished := gr.finished + 1, owes := owes } else s.gridAt q
    let word := fun (t : State) (key v : Nat) => leNat (t.readMem key 8) = v
      ∧ ∀ a, ¬(key ≤ a ∧ a < key + 8) → t.readMem a 1 = s.readMem a 1
    let still := fun (bit : Nat) (v : SignalTo) => ∀ x : State, x = { s with wgs := x.wgs, grids := x.grids, mem := x.mem } →
      (∀ a, ¬(bit ≤ a ∧ a < bit + 8) → x.readMem a 1 = s.readMem a 1) → x.signalTo g.ctx counter = v
    (g.bitVa = 0 → counter = 0 ∨ s.signalTo g.ctx counter = .wait →
      ∃ t, exec (.workgroupExitFinish n) s = .next t ∧ t = { s with wgs := t.wgs, grids := t.grids } ∧ gone (counter ≠ 0) t)
    ∧ (∀ key, g.bitVa ≠ 0 → s.signalTo g.ctx g.bitVa = .key key → s.linePoisoned key = false → counter = 0 ∨ still key .wait →
      ∃ t, exec (.workgroupExitFinish n) s = .next t ∧ t = { s with wgs := t.wgs, grids := t.grids, mem := t.mem }
        ∧ gone (counter ≠ 0) t ∧ word t key (leNat (s.readMem key 8) ||| 2 ^ (g.index % 64)))
    ∧ (∀ bit key, g.bitVa ≠ 0 → counter ≠ 0 → s.signalTo g.ctx g.bitVa = .key bit → s.linePoisoned bit = false →
      still bit (.key key) → s.linePoisoned key = false → bit + 8 ≤ key ∨ key + 8 ≤ bit →
      ∃ t, exec (.workgroupExitFinish n) s = .next t ∧ t = { s with wgs := t.wgs, grids := t.grids, mem := t.mem }
        ∧ gone false t
        ∧ leNat (t.readMem bit 8) = leNat (s.readMem bit 8) ||| 2 ^ (g.index % 64)
        ∧ leNat (t.readMem key 8) = (leNat (s.readMem key 8) + (2 ^ 64 - 1)) % 2 ^ 64
        ∧ ∀ a, ¬(bit ≤ a ∧ a < bit + 8) → ¬(key ≤ a ∧ a < key + 8) → t.readMem a 1 = s.readMem a 1)
    ∧ (∀ key, g.bitVa = 0 → counter ≠ 0 → s.signalTo g.ctx counter = .key key → s.linePoisoned key = false →
      ∃ t, exec (.workgroupExitFinish n) s = .next t ∧ t = { s with wgs := t.wgs, grids := t.grids, mem := t.mem }
        ∧ gone false t ∧ word t key ((leNat (s.readMem key 8) + (2 ^ 64 - 1)) % 2 ^ 64))
    ∧ (g.bitVa ≠ 0 → s.signalTo g.ctx g.bitVa = .wait → exec (.workgroupExitFinish n) s = .next s))
  ∧ ∀ (s : State) n, s.hasWg n = true → (s.wgAt n).place = .finished →
    let g := s.wgAt n
    let gr := s.gridAt g.seq
    (gr.owes = false ∨ g.fp.counter ≠ 0 ∧ s.signalTo g.ctx g.fp.counter = .wait → exec (.workgroupExitFinish n) s = .next s)
    ∧ ∀ key, gr.owes = true → g.fp.counter ≠ 0 → s.signalTo g.ctx g.fp.counter = .key key → s.linePoisoned key = false →
      ∃ t, exec (.workgroupExitFinish n) s = .next t ∧ t = { s with grids := t.grids, mem := t.mem }
        ∧ (∀ q, t.gridAt q = if q = g.seq then { gr with owes := false } else s.gridAt q)
        ∧ leNat (t.readMem key 8) = (leNat (s.readMem key 8) + (2 ^ 64 - 1)) % 2 ^ 64
        ∧ ∀ a, ¬(key ≤ a ∧ a < key + 8) → t.readMem a 1 = s.readMem a 1

/-- R275 to R278, R281, R282, R291: an eligible workgroup with a reason and room in the pool drains and takes a range of the
pool; once nothing it issued is outstanding its state is written there and it is evicted, or resumable where a wake condition
came true meanwhile; it is resumable once a warp's wake condition holds; it resumes on a core where it fits with its scratchpad
as it was, and its warps wait on at BAR and LAUNCH and execute AWAIT, BWAIT and JOIN afresh; a LAUNCH on a full queue is
executed afresh where an entry waits for its warp. What is resumed comes from what the device kept, not from the area's bytes:
that is the model's choice, and so are which resumable workgroup of a grid goes on first, where the tag entries lie in the
area, and what its bytes past a warp's save area and in an exited warp's PC hold (log 22). -/
def Obligations.EvictionSteps : Prop :=
  (∀ (s : State) n r, s.hasWg n = true → s.evictable n = true → s.evictionDue n = true →
    (s.gridAt (s.wgAt n).seq).killed = false → s.poolRange (s.wgAt n) = some r →
    let g := s.wgAt n
    (∃ t, exec (.evictionStart n) s = .next t ∧ t = { s with wgs := t.wgs } ∧ s.otherWgs n t
      ∧ t.wgAt n = { g with place := .draining, area := some r })
    ∧ r.1 % 4096 = 0 ∧ g.areaSize ≤ r.2 ∧ r.1 + r.2 ≤ (s.ctxAt g.ctx).evpsz
    ∧ ∀ u ∈ s.poolUsed g.ctx, r.1 + r.2 ≤ u.1 ∨ u.1 + u.2 ≤ r.1)
  ∧ (∀ (s : State) n, (s.wgAt n).place = .draining → s.outstanding n = false → (s.gridAt (s.wgAt n).seq).killed = false →
    (s.coreAt (s.wgAt n).core).latent = [] →
    let g := s.wgAt n
    let at_ := memKey 0 ((s.ctxAt g.ctx).evp + (g.area.map Prod.fst).getD 0)
    let bytes := s.areaBytes n ++ s.padRead g.core g.base g.alloc
    ∃ t, exec (.evictionSave n) s = .next t ∧ t = { s with wgs := t.wgs, mem := t.mem } ∧ s.otherWgs n t
      ∧ t.wgAt n = { g with
          place := if g.woken then .resumable else .evicted, woken := false, saved := (t.wgAt n).saved
          savedPoison := (t.wgAt n).savedPoison }
      ∧ (∀ o, o < g.alloc → [Tab.get 0 o (t.wgAt n).saved] = s.padRead g.core (g.base + o) 1)
      ∧ t.readMem at_ bytes.length = bytes
      ∧ ∀ a, ¬(at_ ≤ a ∧ a < at_ + bytes.length) → t.readMem a 1 = s.readMem a 1)
  ∧ (∀ (s : State) n k, k ∈ (s.wgAt n).keys n → s.wakes (s.wgAt n) (s.warpAt k) = true →
    ∃ t, exec (.workgroupResumable n) s = .next t ∧ t = { s with wgs := t.wgs } ∧ s.otherWgs n t
      ∧ ((s.wgAt n).place = .evicted → t.wgAt n = { s.wgAt n with place := .resumable })
      ∧ ((s.wgAt n).place = .draining → t.wgAt n = { s.wgAt n with woken := true })
      ∧ ((s.wgAt n).place ≠ .evicted → (s.wgAt n).place ≠ .draining → t = s))
  ∧ ∀ (s : State) die q gr n g core owner base slots, die < 4 → firstGrid (s.waiting die) = some (q, gr) →
    s.resumable q = some (n, g) → s.wgAt n = g → s.findCore die g.fp = some (core, owner, base, slots) →
    Tab.wf 0 g.saved = true → (∀ p ∈ g.saved, p.1 < g.alloc) →
    ∃ t, exec (.resumeWorkgroup die) s = .next t
      ∧ t = { s with wgs := t.wgs, warps := t.warps, cores := t.cores, dies := t.dies } ∧ s.otherWgs n t
      ∧ t.wgAt n = { g with
          place := .resident, core := core, owner := owner, base := base, area := none, saved := [], savedPoison := []
          launchQ := (t.wgAt n).launchQ, lastTake := (t.wgAt n).lastTake }
      ∧ ((t.wgAt n).launchQ.map fun e => (e.raw, e.map, e.fp)) = g.launchQ.map (fun e => (e.raw, e.map, e.fp))
      ∧ (∀ k ∈ g.keys n, t.warpAt k = { s.warpAt k with
          hs := [], hv := [], fetched := [], held := none, slot := slots.getD (k - 32 * n) 0, wctx := (t.warpAt k).wctx
          run := match (s.warpAt k).run with
            | .await .. | .bwait .. | .join _ | .ldf => .running
            | .launch e a => if 4 ≤ g.launchQ.length ∧ (s.warpAt k).trapQ ≠ [] then .running else .launch e a
            | r => r })
      ∧ (∀ k, k ∉ g.keys n → t.warpAt k = s.warpAt k) ∧ s.otherCores core t
      ∧ (∀ o, o < g.alloc → t.padRead core (base + o) 1 = [Tab.get 0 o g.saved])
      ∧ (∀ p, ¬(base ≤ p ∧ p < base + g.alloc) → t.padRead core p 1 = s.padRead core p 1)
      ∧ t.dieAt die = { s.dieAt die with lastCore := core % 64 }

/-! The fabric and the management domain. -/

/-- R300, R303, R305, R317, R320, R322, R325 to R327: peer ingress into an exported range writes its bytes and arrives with their
count; one that the entry or the translation does not permit freezes the port, which holds the command, with a record. An engine
fault freezes the master, with a record of the command it holds; the host's release thaws it, and a decoder's record or a port's
command then arrives with POISON. Freeze, a thermal limit, boot, a configuration request and attestation have their effects: a
response holds the digests of the ROM, of the firmware that was booted and of the fuses, the nonce and the signature. The model
chose: the digests' byte order, and the firmware's bytes as its header and body (log 9); that a frozen master keeps its command
and reports to the context of the command it holds (log 17); 64 bank starts without a limit (log 24); that V is bit 0 of an
export entry's byte 30, that LOFF counts from the scratchpad's start, and that a held ingress command arrives on the object of
the entry it named, whatever its key (log 28). -/
def Obligations.FabricAndManagementSteps : Prop :=
  (∀ (s : State) port entry key off bytes,
    let f := entryField s.exportTable (32 * entry)
    let ctx := f 0 4
    let va : DWord := BitVec.ofNat 64 (f 8 8 + off)
    let legal := entry < 1024 ∧ f 30 1 % 2 = 1 ∧ f 4 4 = key.toNat ∧ off + bytes.length ≤ f 16 8
    port < 4 → bytes ≠ [] → port ∉ s.portsFrozen →
    (∀ x, legal → s.translateUnits noCore ctx ⟨va, bytes.length, [.engWrite], 4⟩ (va.toNat / 2 ^ 19)
        (⟨va, bytes.length, [.engWrite], 4⟩ : GRange).units [] = .ok x →
      (s.ctxAt ctx).replay = false → f 24 2 < 256 → f 26 4 % 16 = 0 → f 26 4 + 16 ≤ 2 ^ 20 → (s.coreAt (f 24 2)).latent = [] →
      let at_ := fun j => xkey x (va.toNat + j)
      (∀ j, j < bytes.length → isPeer (at_ j) = false) →
      (∀ j k, j < bytes.length → k < bytes.length → at_ j = at_ k → j = k) →
      ∃ t, exec (.peerIngressCommand port entry key off bytes) s = .next t
        ∧ t = { s with mem := t.mem, cores := t.cores }
        ∧ (∀ j, j < bytes.length → t.readMem (at_ j) 1 = [bytes.getD j 0])
        ∧ (∀ a, (∀ j, j < bytes.length → a ≠ at_ j) → t.readMem a 1 = s.readMem a 1)
        ∧ s.otherCores (f 24 2) t ∧ s.arrived t (f 24 2) (f 26 4) bytes.length 0)
    ∧ (entry < 1024 → (s.ctxAt ctx).registered = true → s.ringRoom ctx →
      (¬legal ∨ ∃ a, s.translateUnits noCore ctx ⟨va, bytes.length, [.engWrite], 4⟩ (va.toNat / 2 ^ 19)
          (⟨va, bytes.length, [.engWrite], 4⟩ : GRange).units [] = .bad a) →
        ∃ t, exec (.peerIngressCommand port entry key off bytes) s = .next t
          ∧ t = { s with
              portsFrozen := s.portsFrozen ++ [port]
              portHeld := s.portHeld ++ if f 30 1 % 2 = 1 then [⟨port, f 24 2, f 26 4, bytes.length⟩] else []
              ctxs := t.ctxs, mem := t.mem, msix := t.msix, msixPending := t.msixPending }
          ∧ s.recorded t ctx { kind := 5, unit := 0x5400 + port, addr1 := va }))
  ∧ (∀ (s : State) port entry key off bytes, port ∈ s.portsFrozen →
    exec (.peerIngressCommand port entry key off bytes) s = .next s)
  ∧ (∀ (s : State) u addr, isMaster u = true → s.isFrozen (unitDie u) u = false → unitKind u ≠ 1 →
    (s.heldWg u = none → ∃ t, exec (.engineFault u addr) s = .next t ∧ t = { s with dies := t.dies }
      ∧ t.dieAt (unitDie u) = { s.dieAt (unitDie u) with frozen := (s.dieAt (unitDie u)).frozen ++ [u] })
    ∧ ∀ n, s.heldWg u = some n → s.ringRoom (s.wgAt n).ctx →
      ∃ t, exec (.engineFault u addr) s = .next t
        ∧ t = { s with dies := t.dies, ctxs := t.ctxs, mem := t.mem, msix := t.msix, msixPending := t.msixPending }
        ∧ t.dieAt (unitDie u) = { s.dieAt (unitDie u) with frozen := (s.dieAt (unitDie u)).frozen ++ [u] }
        ∧ s.recorded t (s.wgAt n).ctx
          { kind := 5, unit := u.toNat, seq := (s.wgAt n).seq, index := (s.wgAt n).index, addr1 := addr })
  ∧ (∀ (s : State) u addr, isMaster u = true → unitKind u = 1 →
    ∃ t, exec (.engineFault u addr) s = .next t ∧ t.isFrozen (unitDie u) u = true ∧ t.warps = s.warps ∧ t.wgs = s.wgs
      ∧ ∀ c, t.coreAt c = { s.coreAt c with queues := (t.coreAt c).queues })
  ∧ (∀ (s : State) u,
    (unitKind u = 5 → (∀ h ∈ s.portHeld, h.port ≠ unitNo u) →
      exec (.engineMasterRelease u) s = .next { s with portsFrozen := s.portsFrozen.filter fun p => p ≠ unitNo u })
    ∧ (∀ h, unitKind u = 5 → s.portHeld.filter (fun x => x.port = unitNo u) = [h] → h.core < 256 → h.loff % 16 = 0 →
      h.loff + 16 ≤ 2 ^ 20 → (s.coreAt h.core).latent = [] →
      ∃ t, exec (.engineMasterRelease u) s = .next t
        ∧ t = { s with
            portsFrozen := s.portsFrozen.filter (fun p => p ≠ unitNo u)
            portHeld := s.portHeld.filter (fun x => x.port ≠ unitNo u), cores := t.cores }
        ∧ s.otherCores h.core t ∧ s.arrived t h.core h.loff h.count 4)
    ∧ (unitKind u ≠ 5 → ∃ t, exec (.engineMasterRelease u) s = .next t ∧ t.isFrozen (unitDie u) u = false)
    ∧ ∀ r, unitKind u = 2 → s.isFrozen (unitDie u) u = true → (s.decoderAt (unitDie u) (unitNo u)).active = none →
      (s.decoderAt (unitDie u) (unitNo u)).queue = [r] → r.frames = 1 → (s.coreAt (s.wgAt r.wg).core).latent = [] →
      let g := s.wgAt r.wg
      ∃ t, exec (.engineMasterRelease u) s = .next t ∧ t = { s with dies := t.dies, cores := t.cores }
        ∧ t.decoderAt (unitDie u) (unitNo u) = { s.decoderAt (unitDie u) (unitNo u) with queue := [] }
        ∧ s.otherCores g.core t ∧ s.arrived t g.core (g.base + r.arv) r.window 4)
  ∧ (∀ (s : State) why, s.frozen = false → ∃ t, exec (.freeze why) s = .next t
    ∧ t = { s with frozen := true, evcause := s.evcause ||| 1, msix := t.msix, msixPending := t.msixPending })
  ∧ (∀ (s : State) die on banks, die < 4 → ∃ t, exec (.thermalLimit die on banks) s = .next t
    ∧ t = { s with
        dies := t.dies, msix := t.msix, msixPending := t.msixPending
        evcause := if on && !(s.dieAt die).limit then s.evcause ||| 2 else s.evcause }
    ∧ ∀ d, t.dieAt d = if d = die then { s.dieAt die with limit := on, starts := if on then banks else .b64 } else s.dieAt d)
  ∧ (∀ (s : State) p q, s.booted = false → s.bootFailed = false →
    ∃ t, exec (.boot p q) s = .next t
      ∧ t = { s with
          booted := p.any FwImage.accepted || q.any FwImage.accepted
          bootFailed := !(p.any FwImage.accepted || q.any FwImage.accepted)
          firmware := match p.filter FwImage.accepted, q.filter FwImage.accepted with
            | some i, _ | none, some i => Config.fwHeader i.key i.version i.body.length ++ i.body
            | none, none => s.firmware
          evcause := if p.any FwImage.accepted then s.evcause else s.evcause ||| 4
          msix := t.msix, msixPending := t.msixPending })
  ∧ (∀ (s : State) r, exec (.configurationRequest r) s = .next { s with cfgReplies := s.cfgReplies ++ [s.bootFailed] })
  ∧ ∀ (s : State) nonce doe, ∃ a, exec (.attestationRequest nonce doe) s = .next { s with attested := s.attested ++ [(doe, a)] }
    ∧ a.nonce = nonce ∧ a.rom = Config.shake512 Config.romBytes ∧ a.firmware = Config.shake512 s.firmware
    ∧ a.fuses = Config.shake512 Config.fuseBytes ∧ a.signature.length = 29792
    ∧ ∀ i, i < 29792 → a.signature[i]? = some (Config.slhSign
        (leBytes 64 a.rom.toNat ++ leBytes 64 a.firmware.toNat ++ leBytes 64 a.fuses.toNat ++ leBytes 32 nonce.toNat) i)

/-! The host. -/

/-- R315, R320: the doorbell sets QTAIL; a write of QCTL enables a queue whose sizes and ceiling are legal, and disabling one
clears its indexes; a queue's bases and sizes take writes only while it is disabled; EVCAUSE is cleared by ones; a peer or export
entry with V = 0 takes writes, but for the bits that its table gives as zero, and one with V = 1 none beside its V; an access of
another size is ignored; BAR2 writes and reads bytes through the window, as far as the window and the tier reach; one that names
neither near nor capacity reads zero and drops writes. The 8-byte size of BAR2WIN and EVCAUSE, and what lies past the tier's end
in the window, are the model's choice (log 28), and V's byte the only one that takes a write then is too (log 25). -/
def Obligations.HostRegisterSteps : Prop :=
  (∀ (s : State) q (v : Word), s.hostDead = false → q < 64 →
    let x := s.hostqAt q
    let base := 0x50000 + 64 * q
    (∃ t, exec (.doorbell q v) s = .next t ∧ s.queueNow t q { x with qtail := v })
    ∧ (v.getLsbD 0 = true →
      (ringSize x.qsize ∧ ringSize x.ssize ∧ x.qceil.toNat ≤ 47 →
        ∃ t, exec (.queueEnable q v) s = .next t ∧ s.queueNow t q { x with qctl := v &&& 3 })
      ∧ (¬(ringSize x.qsize ∧ ringSize x.ssize ∧ x.qceil.toNat ≤ 47) →
        ∃ t, exec (.queueEnable q v) s = .next t ∧ s.queueNow t q { x with qctl := v &&& 2 })
      ∧ exec (.registerWrite (base + 0x2C) 4 (v.setWidth 64)) s = exec (.queueEnable q v) s)
    ∧ (v.getLsbD 0 = false →
      (∃ t, exec (.queueDisable q v) s = .next t
        ∧ s.queueNow t q { x with qctl := v &&& 2, qhead := 0, qtail := 0, stail := 0, shead := 0 })
      ∧ exec (.registerWrite (base + 0x2C) 4 (v.setWidth 64)) s = exec (.queueDisable q v) s)
    ∧ exec (.registerWrite (0x1000 * q) 4 (v.setWidth 64)) s = exec (.doorbell q v) s
    ∧ (∃ t, exec (.registerWrite (base + 0x0C) 4 (v.setWidth 64)) s = .next t ∧ s.queueNow t q { x with qceil := v })
    ∧ (∃ t, exec (.registerWrite (base + 0x28) 4 (v.setWidth 64)) s = .next t ∧ s.queueNow t q { x with shead := v })
    ∧ (∃ t, exec (.registerWrite (base + 0x08) 4 (v.setWidth 64)) s = .next t
      ∧ s.queueNow t q (if x.qctl.getLsbD 0 then x else { x with qsize := v }))
    ∧ (∃ t, exec (.registerWrite (base + 0x20) 4 (v.setWidth 64)) s = .next t
      ∧ s.queueNow t q (if x.qctl.getLsbD 0 then x else { x with ssize := v }))
    ∧ ∀ a : DWord, (∃ t, exec (.registerWrite base 8 a) s = .next t
        ∧ s.queueNow t q (if x.qctl.getLsbD 0 then x else { x with qbase := a }))
      ∧ ∃ t, exec (.registerWrite (base + 0x18) 8 a) s = .next t
        ∧ s.queueNow t q (if x.qctl.getLsbD 0 then x else { x with sbase := a }))
  ∧ (∀ (s : State) (v : DWord), s.hostDead = false →
    exec (.evcauseClear v) s = .next { s with evcause := s.evcause &&& ~~~v }
    ∧ exec (.registerWrite 0x40018 8 v) s = .next { s with evcause := s.evcause &&& ~~~v }
    ∧ exec (.registerWrite 0x40010 8 v) s = .next { s with bar2win := v &&& 0xC00FFFFF00000000 }
    ∧ ∀ c, c < 4096 →
      (∃ t, exec (.registerWrite (0x80000 + 32 * c) 4 v) s = .next t ∧ t = { s with ctxs := t.ctxs }
        ∧ s.otherCtxs c t ∧ t.ctxAt c = { s.ctxAt c with errHead := v.setWidth 32 })
      ∧ ∃ t, exec (.registerWrite (0x80000 + 32 * c + 0x10) 4 v) s = .next t ∧ t = { s with ctxs := t.ctxs }
        ∧ s.otherCtxs c t ∧ t.ctxAt c = { s.ctxAt c with dbgHead := v.setWidth 32 })
  ∧ (∀ (s : State) off size v, size ≠ 4 ∧ size ≠ 8 ∨ off % size ≠ 0 → exec (.registerWrite off size v) s = .next s)
  ∧ (∀ (s : State) off size (v : DWord), s.hostDead = false → size = 4 ∨ size = 8 → off % size = 0 →
    let now := fun (t t' : Tab Byte) (zero : Nat → Byte) => ∀ a, Tab.get 0 a t' =
      if off ≤ a ∧ a < off + size then BitVec.ofNat 8 (v.toNat / 256 ^ (a - off)) &&& ~~~(zero (a % 32)) else Tab.get 0 a t
    (off + size ≤ 0x20000 → ((Tab.get 0 (off / 32 * 32 + 19) s.peerTable).getLsbD 7 = false →
        ∃ t, exec (.registerWrite (0xA0000 + off) size v) s = .next t ∧ t = { s with peerTable := t.peerTable }
          ∧ now s.peerTable t.peerTable fun b => if b = 19 then 0x7C else 0)
      ∧ ((Tab.get 0 (off / 32 * 32 + 19) s.peerTable).getLsbD 7 = true → ¬(off ≤ off / 32 * 32 + 19 ∧ off / 32 * 32 + 19 < off + size) →
        exec (.registerWrite (0xA0000 + off) size v) s = .next s))
    ∧ (off + size ≤ 0x8000 → ((Tab.get 0 (off / 32 * 32 + 30) s.exportTable).getLsbD 0 = false →
        ∃ t, exec (.registerWrite (0xC0000 + off) size v) s = .next t ∧ t = { s with exportTable := t.exportTable }
          ∧ now s.exportTable t.exportTable fun b => if b = 31 then 0xFF else 0)
      ∧ ((Tab.get 0 (off / 32 * 32 + 30) s.exportTable).getLsbD 0 = true → ¬(off ≤ off / 32 * 32 + 30 ∧ off / 32 * 32 + 30 < off + size) →
        exec (.registerWrite (0xC0000 + off) size v) s = .next s)))
  ∧ ∀ (s : State) off bytes len, s.hostDead = false → (∀ c, (s.ctxAt c).replay = false) →
    let tier := s.bar2win.toNat / 2 ^ 62
    let base := s.bar2win.toNat % 2 ^ 52 + off
    let room := min (2 ^ 32 - off) (tierLimit {} tier - base)
    let key := memKey tier base
    let n := min bytes.length room
    (2 ≤ tier → exec (.bar2Write off bytes) s = .next s ∧ s.bar2Read off len = List.replicate len 0)
    ∧ (tier < 2 →
      (∃ t, exec (.bar2Write off bytes) s = .next t ∧ t = { s with mem := t.mem }
        ∧ t.readMem key n = bytes.take n ∧ ∀ a, ¬(key ≤ a ∧ a < key + n) → t.readMem a 1 = s.readMem a 1)
      ∧ (s.bar2Read off len).length = len
      ∧ ∀ i, i < len → (s.bar2Read off len)[i]? = some (if i < room then Tab.get 0 (key + i) s.mem else 0))

/-- R283 to R285, R317 to R321: each entry at the head of a host queue has its effect and its status: a launch makes a grid
at depth 0 with its clipped priority, or is rejected; and so for the translation command, the descriptor, pre-emption, its
outcome and its withdrawal, kill, the decoder's area, and the debugger's entries and events. The model chose: the status 4 of
KILL, PREEMPT's status with its outcome, WITHDRAW's answer, and a timeout at any time (log 23); that a host launch adds nothing
to its counter, that DETACH is rejected where a stopped warp's tpc is misaligned or not canonical, and that the PC and exec of a save
area do not follow a DBGWRITE of tpc and texec (log 28). -/
def Obligations.HostEntrySteps : Prop :=
  (∀ (s : State) q ctx b, s.heads q 1 ctx b →
    let a : DWord := BitVec.ofNat 64 (qf b 8 8)
    (∀ e c, (s.ctxAt ctx).registered = true → s.launchCheck noCore ctx a 47 = .ok e c →
      ∃ e0 t : State, exec (.hostLaunch q) s = .next t ∧ e0.answered t q 0 s.nextSeq
        ∧ e0 = { s with grids := e0.grids, nextSeq := s.nextSeq + 1 }
        ∧ ∀ n, e0.gridAt n = if n = s.nextSeq then
          { ctx := ctx, prio := min e.fp.prio (s.hostqAt q).qceil.toNat, fp := e.fp
            stopAtEntry := (qf b 16 1).testBit 0 && (s.ctxAt ctx).debugger.isSome } else s.gridAt n)
    ∧ ((s.ctxAt ctx).registered = false ∨ (∃ c, s.launchCheck noCore ctx a 47 = .bad c) →
      ∃ t, exec (.hostLaunch q) s = .next t ∧ s.answered t q 1 0))
  ∧ (∀ (s : State) q ctx b, s.heads q 2 ctx b → ∃ t, exec (.xlate q) s = .next t
    ∧ ({ s with xlq := s.xlq ++ [(b.drop 32).take 32] } : State).answered t q 0 0)
  ∧ (∀ (s : State) q ctx b, s.heads q 3 ctx b →
    let d := s.readMem (memKey 2 (qf b 8 8)) 256
    let busy := (∃ p ∈ s.grids, p.2.ctx = ctx ∧ p.2.live = true) ∨ ∃ p ∈ s.wgs, p.2.ctx = ctx ∧ p.2.place ≠ .finished
    (∀ c, descCtx d (s.ctxAt ctx) = some c → ¬busy →
      ∃ e0 t : State, exec (.desc q) s = .next t ∧ e0.answered t q 0 0 ∧ e0 = { s with ctxs := e0.ctxs, mem := e0.mem }
        ∧ s.otherCtxs ctx e0 ∧ e0.ctxAt ctx = c ∧ c.registered = true ∧ c.hostwin = qf d 8 8 ∧ c.peerwin = qf d 16 8
        ∧ c.tvb = BitVec.ofNat 64 (qf d 24 8) ∧ c.shtn = qf d 40 4 ∧ c.arenag = qf d 56 8 ∧ c.evpsz = qf d 72 8
        ∧ c.errn = qf d 88 4 ∧ c.sets = []
        ∧ ∀ a, e0.readMem a 1 = if c.sht ≤ a ∧ a < c.sht + 16 * c.shtn then [0] else s.readMem a 1)
    ∧ (descCtx d (s.ctxAt ctx) = none ∨ busy → ∃ t, exec (.desc q) s = .next t ∧ s.answered t q 1 0))
  ∧ (∀ (s : State) q ctx b, s.heads q 4 ctx b → (s.ctxAt ctx).registered = true → (s.ctxAt ctx).preempt = none →
    qf b 8 8 % 64 = 0 → ∃ e0 : State, exec (.preempt q) s = .next (e0.took q) ∧ s.ctxNow e0 ctx { s.ctxAt ctx with
      preempt := some { queue := q, buf := qf b 8 8, size := qf b 16 8 }, preempted := false })
  ∧ (∀ (s : State) q ctx b, s.heads q 5 ctx b →
    (∀ p, (s.ctxAt ctx).preempt = some p → p.reported = true ∨ (s.hostqAt p.queue).enabled = false →
      ∃ e0 t : State, exec (.withdraw q) s = .next t ∧ e0.answered t q 0 0
        ∧ s.ctxNow e0 ctx { s.ctxAt ctx with preempt := none, preempted := false })
    ∧ (∀ p, (s.ctxAt ctx).preempt = some p → p.reported = false → (s.hostqAt p.queue).enabled = true →
      let room := s.statusRoom p.queue (if p.queue = q then 2 else 1)
      (room = true → ∃ e0 e1 t : State, exec (.withdraw q) s = .next t
        ∧ s.ctxNow e0 ctx { s.ctxAt ctx with preempt := none, preempted := false }
        ∧ e0.statused e1 p.queue 0 0 ∧ e1.answered t q 0 0)
      ∧ (room = false → exec (.withdraw q) s = .next s))
    ∧ ((s.ctxAt ctx).preempt = none → ∃ t, exec (.withdraw q) s = .next t ∧ s.answered t q 1 0))
  ∧ (∀ (s : State) ctx p, (s.ctxAt ctx).preempt = some p → p.reported = false → s.hostDead = false →
    s.statusRoom p.queue 1 = true →
    let l := s.residents ctx
    let n := min l.length (p.size / 544)
    ∃ e0 t : State, exec (.preemptTimeout ctx) s = .next t ∧ e0 = { s with ctxs := e0.ctxs, mem := e0.mem } ∧ s.otherCtxs ctx e0
      ∧ e0.ctxAt ctx = { s.ctxAt ctx with preempt := some { p with reported := true }, preempted := l.isEmpty }
      ∧ (∀ i x, i < n → l[i]? = some x → e0.readMem (memKey 2 (p.buf + 544 * i)) 544 = s.reportEntry x.1 x.2)
      ∧ (∀ a, ¬(memKey 2 p.buf ≤ a ∧ a < memKey 2 p.buf + 544 * n) → e0.readMem a 1 = s.readMem a 1)
      ∧ e0.statused t p.queue (if l = [] then 2 else 3) (n + 2 ^ 32 * (l.length - n)))
  ∧ (∀ (s : State) q ctx b, s.heads q 6 ctx b → (∃ p ∈ s.grids, p.1 = qf b 8 8) → (s.gridAt (qf b 8 8)).ctx = ctx →
    (s.gridAt (qf b 8 8)).live = true → Tab.wf {} s.wgs = true →
    ∃ e0 t : State, exec (.kill q) s = .next t ∧ e0.answered t q 4 0
      ∧ e0 = { s with grids := e0.grids, wgs := e0.wgs, warps := e0.warps } ∧ (e0.gridAt (qf b 8 8)).killed = true
      ∧ ∀ n, (s.wgAt n).seq = qf b 8 8 → s.hasWg n = true → (s.wgAt n).place ≠ .finished →
        (e0.wgAt n).launchQ = []
        ∧ ((s.wgAt n).place = .evicted ∨ (s.wgAt n).place = .resumable →
          (e0.wgAt n).place = .finished ∧ (e0.wgAt n).area = none)
        ∧ ((s.wgAt n).place = .resident ∨ (s.wgAt n).place = .draining →
          ∀ k ∈ (s.wgAt n).keys n, (e0.warpAt k).run.live = false))
  ∧ (∀ (s : State) q ctx b key, s.heads q 7 ctx b → locKey [0] 1 (qf b 8 8) = some key → qf b 16 2 < 16 → qf b 18 1 < 4 →
    let die := qf b 16 2 / 4
    let i := qf b 16 2 % 4
    ∃ e0 t : State, exec (.decarea q) s = .next t ∧ e0.answered t q 0 0 ∧ e0 = { s with dies := e0.dies }
      ∧ e0.decoderAt die i = { s.decoderAt die i with areas := (e0.decoderAt die i).areas }
      ∧ ∀ c, Tab.get (0, 0) c (e0.decoderAt die i).areas =
          if c = qf b 18 1 then (key, qf b 24 8) else Tab.get (0, 0) c (s.decoderAt die i).areas)
  ∧ (∀ (s : State) q ctx b, s.heads q 8 ctx b → (s.ctxAt ctx).registered = true → (s.ctxAt ctx).debugger = none →
    qf b 8 8 % 64 = 0 → (∃ k, 4 ≤ k ∧ k ≤ 12 ∧ qf b 24 4 = 2 ^ k) →
    ∃ e0 t : State, exec (.attach q) s = .next t ∧ e0.answered t q 0 0 ∧ s.ctxNow e0 ctx { s.ctxAt ctx with
      debugger := some { ring := qf b 8 8, size := qf b 24 4, claims := BitVec.ofNat 64 (qf b 16 8) } })
  ∧ (∀ (s : State) q ctx b d, (s.ctxAt ctx).debugger = some d →
    (s.heads q 8 ctx b → ∃ t, exec (.attach q) s = .next t ∧ s.answered t q 1 0)
    ∧ (s.heads q 9 ctx b →
      let l := s.named ctx (qf b 8 8) (qf b 16 4) (qf b 24 8)
      l.Nodup → (∀ k ∈ l, s.hasWg (wgOf k) = true ∧ (s.wgAt (wgOf k)).place = .resident
        ∧ warpNo k < (s.wgAt (wgOf k)).fp.warps ∧ (s.warpAt k).run ≠ .exited
        ∧ ((s.warpAt k).trapQ.filter (·.async)).length < 7) →
      ∃ e0 t : State, exec (.stop q) s = .next t ∧ e0.answered t q 0 0 ∧ e0 = { s with warps := e0.warps }
        ∧ ∀ k, e0.warpAt k = if k ∈ l then (s.warpAt k).reached 0x28 (BitVec.ofNat 64 (qf b 32 8)) (s.wgAt (wgOf k)).full
            else s.warpAt k)
    ∧ (s.heads q 10 ctx b →
      let pc : DWord := BitVec.ofNat 64 (qf b 32 8)
      let at_ := fun k => if pc = 0 then (s.warpAt k).tpc else pc
      ((∀ k ∈ s.stoppedBy ctx b, (at_ k).toNat % 4 = 0 ∧ canonical (at_ k) = true ∧ s.quiet k) → (s.stoppedBy ctx b).Nodup →
        ∃ e0 t : State, exec (.resume q) s = .next t ∧ e0.answered t q 0 0
          ∧ e0 = { s with warps := e0.warps, cores := e0.cores, icinvs := if qf b 40 1 % 2 = 1 then s.icinvs + 1 else s.icinvs }
          ∧ (∀ c, (qf b 40 1 % 2 = 1 ∧ ∃ k ∈ s.stoppedBy ctx b, (s.wgAt (wgOf k)).core = c) →
              e0.coreAt c = { s.coreAt c with icache := (s.coreAt c).icache.filter fun l => l.ctx ≠ ctx })
          ∧ (∀ c, ¬(qf b 40 1 % 2 = 1 ∧ ∃ k ∈ s.stoppedBy ctx b, (s.wgAt (wgOf k)).core = c) →
              e0.coreAt c = s.coreAt c)
          ∧ ∀ k, e0.warpAt k = if k ∈ s.stoppedBy ctx b then { (s.warpAt k).resumedAt (at_ k) with
              icinv := if qf b 40 1 % 2 = 1 then s.icinvs + 1 else (s.warpAt k).icinv } else s.warpAt k)
      ∧ ((∃ k ∈ s.stoppedBy ctx b, (at_ k).toNat % 4 ≠ 0 ∨ canonical (at_ k) = false) →
        ∃ t, exec (.resume q) s = .next t ∧ s.answered t q 1 0))
    ∧ (s.heads q 11 ctx b → ∀ k, s.stoppedWarp ctx b = some k → qf b 8 8 % 64 = 0 →
      (s.coreAt (s.wgAt (wgOf k)).core).latent = [] →
      let w := s.warpAt k
      let g := s.wgAt (wgOf k)
      let at_ := memKey 2 (qf b 8 8)
      ∃ e0 t : State, exec (.dbgread q) s = .next t ∧ e0.answered t q 0 0 ∧ e0 = { s with mem := e0.mem }
        ∧ e0.readMem at_ 16936 = padTo 16936 (w.save g.fp)
        ∧ e0.readMem (at_ + 16936) 256 = s.padRead g.core (g.base + g.frame (warpNo k)) 256
        ∧ e0.readMem (at_ + 17192) 24 = leBytes 8 w.tpc.toNat ++ leBytes 8 w.texec.toNat ++ zeros 8
        ∧ ∀ a, ¬(at_ ≤ a ∧ a < at_ + 17216) → e0.readMem a 1 = s.readMem a 1)
    ∧ (s.heads q 12 ctx b → ∀ k, s.stoppedWarp ctx b = some k →
      let w := s.warpAt k
      let f := (s.wgAt (wgOf k)).fp
      let v : DWord := BitVec.ofNat 64 (qf b 8 8)
      let reg := qf b 30 1
      let done := fun w' : Warp => ∃ e0 t : State, exec (.dbgwrite q) s = .next t ∧ e0.answered t q 0 0
        ∧ e0 = { s with warps := e0.warps } ∧ s.nowAt e0 k w'
      let rejected := ∃ t, exec (.dbgwrite q) s = .next t ∧ s.answered t q 1 0
      match qf b 29 1 with
      | 0 => (reg < f.sregs → ∃ w', done w' ∧ w' = { w with s := w'.s }
          ∧ ∀ j, archS w' j = if j = reg ∧ reg ≠ 0 then v else archS w j) ∧ (f.sregs ≤ reg → rejected)
      | 1 => (reg < f.vregs → ∃ w', done w' ∧ w' = { w with v := w'.v }
          ∧ ∀ j, archV w' j = if j = reg then .uni (v.setWidth 32) else archV w j) ∧ (f.vregs ≤ reg → rejected)
      | 2 => done { w with texec := v &&& wmask f.width }
      | 3 => (v.toNat < 8 → done { w with fmode := v }) ∧ (8 ≤ v.toNat → rejected)
      | 4 => done { w with tpc := v }
      | _ => rejected)
    ∧ (s.heads q 11 ctx b → s.stoppedWarp ctx b = none → ∃ t, exec (.dbgread q) s = .next t ∧ s.answered t q 1 0)
    ∧ (s.heads q 12 ctx b → s.stoppedWarp ctx b = none → ∃ t, exec (.dbgwrite q) s = .next t ∧ s.answered t q 1 0)
    ∧ (s.heads q 13 ctx b → Tab.wf {} s.wgs = true → (∀ p ∈ s.wgs, p.2.fp.warps ≤ 32) →
      let mine := fun k => (s.wgAt (wgOf k)).ctx = ctx ∧ (s.wgAt (wgOf k)).onCore = true ∧ s.hasWg (wgOf k) = true
        ∧ warpNo k < (s.wgAt (wgOf k)).fp.warps ∧ (s.warpAt k).stopped = true ∧ (s.wgAt (wgOf k)).dead = false
      let legal := fun k => (s.warpAt k).tpc.toNat % 4 = 0 ∧ canonical (s.warpAt k).tpc = true
      ((∀ k, mine k → s.quiet k ∧ legal k) →
        ∃ e0 t : State, exec (.detach q) s = .next t ∧ e0.answered t q 0 0 ∧ e0 = { s with ctxs := e0.ctxs, warps := e0.warps }
          ∧ s.otherCtxs ctx e0 ∧ e0.ctxAt ctx = { s.ctxAt ctx with debugger := none }
          ∧ ∀ k, (mine k → e0.warpAt k = (s.warpAt k).resumedAt (s.warpAt k).tpc) ∧ (¬mine k → e0.warpAt k = s.warpAt k))
      ∧ ((∃ k, mine k ∧ ¬legal k) → ∃ t, exec (.detach q) s = .next t ∧ s.answered t q 1 0))
    ∧ (qf b 24 4 = 2 ^ 32 - 1 → s.stoppedWarp ctx b = none)
    ∧ ∀ k e r, d.waiting = (k, e) :: r → s.hostDead = false →
      let c := s.ctxAt ctx
      let g := s.wgAt (wgOf k)
      let at_ := memKey 2 (d.ring + 64 * (c.dbgTail.toNat % d.size))
      (c.dbgTail - c.dbgHead).toNat < d.size →
      ∃ t, exec (.debugEventWrite ctx) s = .next t
        ∧ t = { s with ctxs := t.ctxs, mem := t.mem, msix := t.msix, msixPending := t.msixPending }
        ∧ s.otherCtxs ctx t ∧ t.ctxAt ctx = { c with debugger := some { d with waiting := r }, dbgTail := c.dbgTail + 1 }
        ∧ t.readMem at_ 64 = leBytes 8 g.seq ++ leBytes 4 g.index ++ leBytes 1 (warpNo k) ++ leBytes 1 (g.core / 64)
            ++ leBytes 1 (g.core % 64) ++ [e.cause] ++ leBytes 8 e.pc.toNat ++ leBytes 8 e.detail.toNat ++ zeros 32
        ∧ ∀ a, ¬(at_ ≤ a ∧ a < at_ + 64) → t.readMem a 1 = s.readMem a 1)

/-! The machine. -/

/-- R13, R28, R29, R44, R246 to R248, R184, R210, R289, R306: the step of a warp that is bound to its slot or has dispatched instructions runs
the decoded instruction, at the state that holds the words it fetched: those that it kept while it waited, else those of its oldest
dispatched instruction, else those at its pc; one that then waits in flight is among the dispatched ones. A word that cannot be
fetched takes its fault, with the words fetched before it, or waits for a migration; words that a decode check refuses take 0x03. A
bound warp dispatches the next instruction behind those it has dispatched. A step of another agent that the agenda names runs (log 1).
In replay capture mode the moves that are no boundary input come in the model's fixed order, and a boundary input is recorded with the
number of moves before it, and comes at that number in a rerun to which it is supplied (log 26). When dispatch runs ahead, and behind
which instructions it does not, is the model's choice (log 31). -/
def Obligations.StepRunsDecoded : Prop :=
  (∀ (s : State) k r,
    let w := s.warpAt k
    let g := s.wgAt (wgOf k)
    let s1 := { s with agenda := r, cur := k, iw := [] }
    s.agenda = .warp k :: r → s.inReplay = false → s.frozen = false → g.place = .resident → warpNo k < g.fp.warps →
    w.run = .running → w.sleep = none → (w.stint ≠ none ∨ w.rob ≠ []) → (∀ m, w.notice = some m → m < 32) → w.raised = none →
    (w.trapQ = [] ∨ ¬w.atStintStart ∨ w.handler = true ∨ w.notice ≠ none) →
    (∀ ws, w.nextWords ws ∨ (w.fetched = [] ∧ w.rob = [] ∧ s1.fetch w.pc = .ok ws) →
      (∀ i, decode ({ s1 with iw := ws } : State).dctx ws = .ok i →
        (∀ t, exec i { s1 with iw := ws } = .next t → step s = .next (t.tried k i ws))
        ∧ ((∀ t, exec i { s1 with iw := ws } ≠ .next t) → step s = exec i { s1 with iw := ws }))
      ∧ (decode ({ s1 with iw := ws } : State).dctx ws = .illegalOperand →
          step s = .next (({ s1 with iw := ws } : State).raise 0x03 w.exec w.pc)))
    ∧ (w.fetched = [] → w.rob = [] → s1.fetch w.pc = .wait → step s = .next (s1.setWarpAt k { w with stall := some .migrate }))
    ∧ ∀ c a got, w.fetched = [] → w.rob = [] → s1.fetch w.pc = .bad c a got →
        step s = .next (({ s1 with iw := got } : State).raise (BitVec.ofNat 8 c) w.exec a))
  ∧ (∀ (s : State) k r n ws i,
    let w := s.warpAt k
    let s1 := { s with agenda := r, cur := k }
    s.agenda = .dispatched k :: r → s.inReplay = false → s.frozen = false → (s.wgAt (wgOf k)).place = .resident →
    w.run = .running → w.sleep = none → w.raised = none → w.stint = some n → w.rob.length < 48 → (w.rob = [] → w.stall = none) →
    (∀ e ∈ w.rob, e.turns = false) → s1.fetch (w.pc + BitVec.ofNat 64 (w.rob.map fun e => 4 * e.iw.length).sum) = .ok ws →
    decode s1.dctx ws = .ok i → alone i = false →
    ((∃ f b ty, i = .act f b ty) → ∀ e ∈ w.rob, e.sepia ≠ some .load) →
    (∀ id e f gr, w.stall = some (.accr id none) → w.rob.head? = some e → decode s1.dctx e.iw = .ok (.accr f gr) →
      namesPair f.d i = false) →
    step s = .next (({ s with agenda := r } : State).setWarpAt k { w with
      rob := w.rob ++ [⟨ws, decide (n = 0), blocking i, turning i, sepiaUse s.nextCmd i⟩]
      stint := if ending i = true ∨ 24 ≤ n + 1 then none else some (n + 1) }))
  ∧ (∀ (s : State) i r, s.agenda = .event i :: r → s.inReplay = false → s.frozen = false → wordRow i = false →
    step s = exec i { s with agenda := r })
  ∧ ∀ s : State, s.inReplay = true →
    (∀ p r, s.agenda = p :: r →
      (p.outside = false → step s = move s.autoPick { s with agenda := r, moves := s.moves + 1 })
      ∧ (p.outside = true → step s = move p { s with agenda := r, inputs := s.inputs ++ [(s.moves, p)] }))
    ∧ (s.agenda = [] → (∀ n p, s.supply.head? = some (n, p) → s.moves < n) →
      step s = move s.autoPick { s with moves := s.moves + 1 })
    ∧ ∀ n p r, s.agenda = [] → s.supply = (n, p) :: r → n ≤ s.moves → p.outside = true →
      step s = move p { s with supply := r, inputs := s.inputs ++ [(s.moves, p)] }

/-- R29, R59, R109: words that the spec writes out decode to the instructions it writes beside them. -/
def Obligations.DecodedWords : Prop :=
  decode {} [0x00000400] = .ok (.vidxC ⟨false, false, 0, 0, 0⟩)
  ∧ decode {} [0x00810302, 0x03000000, 0x000186A0] =
      .ok (.add ⟨.eL, false, false, 1, .vec 0 .ident, .lit 100000, .zero⟩)
  ∧ decode {} [0x00020305, 0x04810001] = .ok (.add ⟨.w, true, false, 2, .vec 1 .ident, .vec 1 (.rot 1), .zero⟩)
  ∧ decode {} [0x00000020] = .ok (.exitC ⟨false, false, 0, 0, 0⟩)
  ∧ decode {} [0x00030B02, 0x00000002, 0x00001380] =
      .ok (.ldl ⟨.e0, false, false, 3, .vec 2 .ident, .zero, .imm 256⟩ .w32)
  ∧ decode {} [0x00001B02, 0x00010002, 0x00001380] =
      .ok (.stl ⟨.e0, false, false, 0, .vec 2 .ident, .vec 1 .ident, .imm 256⟩ .w32)
  ∧ decode { width := 32 } [0x03020711, 0x00000001] =
      .ok (.bfpk ⟨.w, false, false, 2, .vec 1 .ident, .zero, .zero⟩ .m4)

/-- R12 to R28: decoding the encoding of a well-formed instruction gives it back, with every
operand and modifier at every value that its checks admit in a warp of any width, register counts, mode and cohorts. -/
def Obligations.RoundTrip : Prop :=
  ∀ x i, i.wellFormed x = true → decode x (encode i) = .ok i

/-- The canonical form of memory and of every core's scratchpad is kept by every step, from every state that has it. -/
def Obligations.MemoryStaysCanonical : Prop :=
  ∀ s t, s.memWf → s.padWf → step s = .next t → t.memWf ∧ t.padWf

/-- R249, R250, R254, R312, R317, R320: reset has the canonical form, and each value that a rule gives at reset: BAR0's registers,
the clocks and error counts, the slots' K, the last placement and the sequence number. That no context, grid, workgroup or warp
exists and that every queue, of commands, of the banks and of the matrix engine, is empty there is the model's choice
(log 4). -/
def Obligations.ResetState : Prop := State.reset.memWf ∧ State.reset.padWf ∧ State.reset.resetValues

/-- R305: once the device is frozen it stays frozen, and no step retires an instruction, makes an arrival or writes memory. That
the management domain still answers requests, and that nothing else of the device moves, is the model's choice (log 28); the
agenda and the record of a replay are the model's own. -/
def Obligations.FrozenStays : Prop :=
  ∀ s t, s.frozen = true → step s = .next t →
    t.frozen = true ∧ t = { s with
      agenda := t.agenda, supply := t.supply, moves := t.moves, inputs := t.inputs, cfgReplies := t.cfgReplies
      attested := t.attested }
end

