-- ==== Sys2Proof/Laws/Av1.lean ====
section
/-! SUPPORT. What taking an OBU off a bitstream does: lemmas for `Machine/Av1.lean`. -/

namespace Sys2Proof.Machine

/-- leb128 leaves a suffix. -/
theorem leb128_suffix (n : Nat) (l r : List Byte) (v : Nat) (h : leb128 n l = some (v, r)) : ∃ p, l = p ++ r := by
  induction n generalizing l v with
  | zero => simp [leb128] at h
  | succ n ih =>
    cases l with
    | nil => simp [leb128] at h
    | cons b l =>
      simp only [leb128] at h
      split at h
      · cases h; exact ⟨[b], rfl⟩
      · simp only [Option.map_eq_some_iff, Prod.mk.injEq] at h
        obtain ⟨⟨v', r'⟩, hl, -, rfl⟩ := h
        obtain ⟨p, rfl⟩ := ih _ _ hl
        exact ⟨b :: p, rfl⟩
/-- An OBU's bytes and the rest are the bitstream, and it takes at least one byte: the bitstream's length is fuel enough. -/
theorem nextObu_append (b rest : List Byte) (o : Obu) (h : nextObu b = some (o, rest)) : b = o.raw ++ rest ∧ o.raw ≠ [] := by
  cases b with
  | nil => simp [nextObu] at h
  | cons x l =>
    simp only [nextObu] at h
    split at h
    · cases h
    · rename_i n r hl
      split at h
      · cases h
      · rename_i hn
        cases h
        obtain ⟨p, hp⟩ : ∃ p, x :: l = x :: p ++ r := by
          obtain ⟨p, hp⟩ := leb128_suffix _ _ _ _ hl
          by_cases he : bitsAt [x] 5 1 = 1
          · exact ⟨l.take 1 ++ p, by
            simp only [he, if_true] at hp
            rw [List.cons_append, List.append_assoc, ← hp, List.take_append_drop]⟩
          · exact ⟨p, by simp only [he, if_false] at hp; simp [hp]⟩
        rw [not_or] at hn
        rw [hp]
        have e : (x :: p ++ r).length - (r.length - n) = (x :: p).length + n := by simp only [List.length_append]; omega
        simp only [e, List.take_append, List.take_of_length_le (Nat.le_add_right (x :: p).length n), Nat.add_sub_cancel_left]
        constructor
        · rw [List.append_assoc, List.take_append_drop]
        · simp

end Sys2Proof.Machine
end

