-- ==== Sys2Proof/Laws/Tab.lean ====
section
/-! SUPPORT. Sparse collections: a read after a write, and that every write keeps the canonical form. -/

namespace Sys2Proof

variable {α : Type}

theorem Tab.get_del (d : α) (k j : Nat) (t : Tab α) :
    Tab.get d j (Tab.del k t) = if j = k then d else Tab.get d j t := by
  induction t with
  | nil => simp [Tab.del, Tab.get]
  | cons p r ih =>
    obtain ⟨i, v⟩ := p
    by_cases h : i = k
    · have : Tab.del k ((i, v) :: r) = Tab.del k r := by simp [Tab.del, h]
      rw [this, ih]
      by_cases hj : j = k <;> simp [Tab.get, hj, h]
      intro hk; exact absurd hk.symm hj
    · have : Tab.del k ((i, v) :: r) = (i, v) :: Tab.del k r := by simp [Tab.del, h]
      rw [this]
      by_cases hj : i = j
      · subst hj; simp [Tab.get, h]
      · simp [Tab.get, hj, ih]

theorem Tab.get_ins (d : α) (k j : Nat) (v : α) (t : Tab α) :
    Tab.get d j (Tab.ins k v t) = if j = k then v else Tab.get d j t := by
  induction t with
  | nil => simp [Tab.ins, Tab.get, eq_comm]
  | cons p r ih =>
    obtain ⟨i, u⟩ := p
    simp only [Tab.ins]
    split
    · by_cases hj : i = j
      · subst hj; simp [Tab.get]; intro h; omega
      · simp [Tab.get, hj, ih]
    · split
      · subst_vars
        by_cases hj : i = j
        · subst hj; simp [Tab.get]
        · simp [Tab.get, hj, Ne.symm hj]
      · by_cases hj : k = j
        · subst hj; simp [Tab.get]
        · simp [Tab.get, hj, Ne.symm hj]

variable [DecidableEq α]

/-- A read after a write. -/
@[simp] theorem Tab.get_put (d : α) (k j : Nat) (v : α) (t : Tab α) :
    Tab.get d j (Tab.put d k v t) = if j = k then v else Tab.get d j t := by
  unfold Tab.put
  split
  · rw [Tab.get_del]; simp [*]
  · exact Tab.get_ins ..
theorem Tab.get_put_same (d : α) (k : Nat) (v : α) (t : Tab α) : Tab.get d k (Tab.put d k v t) = v := by simp

/-- A read after a write of consecutive keys. -/
theorem Tab.get_putN (d : α) (j k : Nat) (l : List α) (t : Tab α) :
    Tab.get d j (Tab.putN d k l t) = if h : k ≤ j ∧ j < k + l.length then l[j - k]'(by omega) else Tab.get d j t := by
  induction l generalizing k t with
  | nil => simp [Tab.putN]
  | cons v r ih =>
    simp only [Tab.putN, ih, Tab.get_put, List.length_cons]
    by_cases h1 : k + 1 ≤ j ∧ j < k + 1 + r.length
    · have h2 : k ≤ j ∧ j < k + (r.length + 1) := by omega
      rw [dif_pos h1, dif_pos h2]
      have : j - k = (j - (k + 1)) + 1 := by omega
      simp [this]
    · rw [dif_neg h1]
      by_cases h2 : j = k
      · subst h2; simp
      · rw [if_neg h2, dif_neg (by omega)]

/-! The canonical form. -/

theorem Tab.wfFrom_mono (d : α) {a b : Nat} (h : a ≤ b) (t : Tab α) (w : Tab.wfFrom d b t = true) :
    Tab.wfFrom d a t = true := by
  cases t with
  | nil => rfl
  | cons p r =>
    obtain ⟨k, v⟩ := p
    simp only [Tab.wfFrom, Bool.and_eq_true, decide_eq_true_eq] at *
    exact ⟨⟨by omega, w.1.2⟩, w.2⟩

theorem Tab.wfFrom_filter (d : α) (p : Nat × α → Bool) (lo : Nat) (t : Tab α) (w : Tab.wfFrom d lo t = true) :
    Tab.wfFrom d lo (t.filter p) = true := by
  induction t generalizing lo with
  | nil => rfl
  | cons x r ih =>
    obtain ⟨k, v⟩ := x
    simp only [Tab.wfFrom, Bool.and_eq_true, decide_eq_true_eq] at w
    by_cases h : p (k, v)
    · simp [h, Tab.wfFrom, w.1.1, w.1.2, ih _ w.2]
    · simp only [List.filter_cons, h]
      exact Tab.wfFrom_mono d (by omega) _ (ih _ w.2)

theorem Tab.wfFrom_ins (d : α) (k : Nat) (v : α) (hv : v ≠ d) (lo : Nat) (hk : lo ≤ k) (t : Tab α)
    (w : Tab.wfFrom d lo t = true) : Tab.wfFrom d lo (Tab.ins k v t) = true := by
  induction t generalizing lo with
  | nil => simp [Tab.ins, Tab.wfFrom, hk, hv]
  | cons x r ih =>
    obtain ⟨j, u⟩ := x
    simp only [Tab.wfFrom, Bool.and_eq_true, decide_eq_true_eq] at w
    simp only [Tab.ins]
    split
    · simp [Tab.wfFrom, w.1.1, w.1.2, ih (j + 1) (by omega) w.2]
    · split
      · subst_vars; simp [Tab.wfFrom, w.1.1, hv, w.2]
      · simp [Tab.wfFrom, hk, hv, w.1.2, w.2]; omega

/-- A write keeps the canonical form. -/
theorem Tab.wf_put (d : α) (k : Nat) (v : α) (t : Tab α) (w : Tab.wf d t = true) : Tab.wf d (Tab.put d k v t) = true := by
  unfold Tab.put
  split
  · exact Tab.wfFrom_filter d _ 0 t w
  · exact Tab.wfFrom_ins d k v (by assumption) 0 (Nat.zero_le _) t w
theorem Tab.wf_putN (d : α) (k : Nat) (l : List α) (t : Tab α) (w : Tab.wf d t = true) :
    Tab.wf d (Tab.putN d k l t) = true := by
  induction l generalizing k t with
  | nil => exact w
  | cons v r ih => exact ih _ _ (Tab.wf_put d k v t w)
theorem Tab.wf_filter (d : α) (p : Nat × α → Bool) (t : Tab α) (w : Tab.wf d t = true) : Tab.wf d (t.filter p) = true :=
  Tab.wfFrom_filter d p 0 t w
theorem Tab.wf_delRange (d : α) (lo hi : Nat) (t : Tab α) (w : Tab.wf d t = true) :
    Tab.wf d (Tab.delRange lo hi t) = true := Tab.wf_filter d _ t w

omit [DecidableEq α] in
/-- Reads of consecutive keys agree when each key does. -/
theorem Tab.getN_congr (d : α) (k n : Nat) (t u : Tab α) (h : ∀ j, k ≤ j → j < k + n → Tab.get d j t = Tab.get d j u) :
    Tab.getN d k n t = Tab.getN d k n u := by
  induction n generalizing k with
  | zero => rfl
  | succ n ih =>
    simp only [Tab.getN]
    rw [h k (Nat.le_refl _) (by omega), ih (k + 1) fun j a b => h j (by omega) (by omega)]

end Sys2Proof
end

