-- ==== Sys2Proof/Laws/State.lean ====
section
/-! SUPPORT. Every update of the state, field by field, and what each accessor reads after it. -/

namespace Sys2Proof.Machine
@[simp] theorem State.setWarpAt_mem (s : State) (k : Nat) (w : Warp) : (s.setWarpAt k w).mem = s.mem := rfl
@[simp] theorem State.setWarpAt_linePoison (s : State) (k : Nat) (w : Warp) : (s.setWarpAt k w).linePoison = s.linePoison := rfl
@[simp] theorem State.setWarpAt_tlb (s : State) (k : Nat) (w : Warp) : (s.setWarpAt k w).tlb = s.tlb := rfl
@[simp] theorem State.setWarpAt_xlq (s : State) (k : Nat) (w : Warp) : (s.setWarpAt k w).xlq = s.xlq := rfl
@[simp] theorem State.setWarpAt_inval (s : State) (k : Nat) (w : Warp) : (s.setWarpAt k w).inval = s.inval := rfl
@[simp] theorem State.setWarpAt_zmap (s : State) (k : Nat) (w : Warp) : (s.setWarpAt k w).zmap = s.zmap := rfl
@[simp] theorem State.setWarpAt_reds (s : State) (k : Nat) (w : Warp) : (s.setWarpAt k w).reds = s.reds := rfl
@[simp] theorem State.setWarpAt_nextSeq (s : State) (k : Nat) (w : Warp) : (s.setWarpAt k w).nextSeq = s.nextSeq := rfl
@[simp] theorem State.setWarpAt_grids (s : State) (k : Nat) (w : Warp) : (s.setWarpAt k w).grids = s.grids := rfl
@[simp] theorem State.setWarpAt_wgs (s : State) (k : Nat) (w : Warp) : (s.setWarpAt k w).wgs = s.wgs := rfl
@[simp] theorem State.setWarpAt_nextWg (s : State) (k : Nat) (w : Warp) : (s.setWarpAt k w).nextWg = s.nextWg := rfl
@[simp] theorem State.setWarpAt_cores (s : State) (k : Nat) (w : Warp) : (s.setWarpAt k w).cores = s.cores := rfl
@[simp] theorem State.setWarpAt_dies (s : State) (k : Nat) (w : Warp) : (s.setWarpAt k w).dies = s.dies := rfl
@[simp] theorem State.setWarpAt_ctxs (s : State) (k : Nat) (w : Warp) : (s.setWarpAt k w).ctxs = s.ctxs := rfl
@[simp] theorem State.setWarpAt_hostqs (s : State) (k : Nat) (w : Warp) : (s.setWarpAt k w).hostqs = s.hostqs := rfl
@[simp] theorem State.setWarpAt_nextCmd (s : State) (k : Nat) (w : Warp) : (s.setWarpAt k w).nextCmd = s.nextCmd := rfl
@[simp] theorem State.setWarpAt_frozen (s : State) (k : Nat) (w : Warp) : (s.setWarpAt k w).frozen = s.frozen := rfl
@[simp] theorem State.setWarpAt_booted (s : State) (k : Nat) (w : Warp) : (s.setWarpAt k w).booted = s.booted := rfl
@[simp] theorem State.setWarpAt_bootFailed (s : State) (k : Nat) (w : Warp) : (s.setWarpAt k w).bootFailed = s.bootFailed := rfl
@[simp] theorem State.setWarpAt_cfgReplies (s : State) (k : Nat) (w : Warp) : (s.setWarpAt k w).cfgReplies = s.cfgReplies := rfl
@[simp] theorem State.setWarpAt_attested (s : State) (k : Nat) (w : Warp) : (s.setWarpAt k w).attested = s.attested := rfl
@[simp] theorem State.setWarpAt_bar2win (s : State) (k : Nat) (w : Warp) : (s.setWarpAt k w).bar2win = s.bar2win := rfl
@[simp] theorem State.setWarpAt_evcause (s : State) (k : Nat) (w : Warp) : (s.setWarpAt k w).evcause = s.evcause := rfl
@[simp] theorem State.setWarpAt_peerTable (s : State) (k : Nat) (w : Warp) : (s.setWarpAt k w).peerTable = s.peerTable := rfl
@[simp] theorem State.setWarpAt_exportTable (s : State) (k : Nat) (w : Warp) : (s.setWarpAt k w).exportTable = s.exportTable := rfl
@[simp] theorem State.setWarpAt_msixTable (s : State) (k : Nat) (w : Warp) : (s.setWarpAt k w).msixTable = s.msixTable := rfl
@[simp] theorem State.setWarpAt_msixPending (s : State) (k : Nat) (w : Warp) : (s.setWarpAt k w).msixPending = s.msixPending := rfl
@[simp] theorem State.setWarpAt_msix (s : State) (k : Nat) (w : Warp) : (s.setWarpAt k w).msix = s.msix := rfl
@[simp] theorem State.setWarpAt_portsFrozen (s : State) (k : Nat) (w : Warp) : (s.setWarpAt k w).portsFrozen = s.portsFrozen := rfl
@[simp] theorem State.setWarpAt_firmware (s : State) (k : Nat) (w : Warp) : (s.setWarpAt k w).firmware = s.firmware := rfl
@[simp] theorem State.setWarpAt_icinvs (s : State) (k : Nat) (w : Warp) : (s.setWarpAt k w).icinvs = s.icinvs := rfl
@[simp] theorem State.setWarpAt_portHeld (s : State) (k : Nat) (w : Warp) : (s.setWarpAt k w).portHeld = s.portHeld := rfl
@[simp] theorem State.setWarpAt_moves (s : State) (k : Nat) (w : Warp) : (s.setWarpAt k w).moves = s.moves := rfl
@[simp] theorem State.setWarpAt_inputs (s : State) (k : Nat) (w : Warp) : (s.setWarpAt k w).inputs = s.inputs := rfl
@[simp] theorem State.setWarpAt_supply (s : State) (k : Nat) (w : Warp) : (s.setWarpAt k w).supply = s.supply := rfl
@[simp] theorem State.setWarpAt_free (s : State) (k : Nat) (w : Warp) : (s.setWarpAt k w).free = s.free := rfl
@[simp] theorem State.setWarpAt_agenda (s : State) (k : Nat) (w : Warp) : (s.setWarpAt k w).agenda = s.agenda := rfl
@[simp] theorem State.setWarpAt_cur (s : State) (k : Nat) (w : Warp) : (s.setWarpAt k w).cur = s.cur := rfl
@[simp] theorem State.setWarpAt_iw (s : State) (k : Nat) (w : Warp) : (s.setWarpAt k w).iw = s.iw := rfl

@[simp] theorem State.setWgAt_mem (s : State) (n : Nat) (g : Wg) : (s.setWgAt n g).mem = s.mem := rfl
@[simp] theorem State.setWgAt_linePoison (s : State) (n : Nat) (g : Wg) : (s.setWgAt n g).linePoison = s.linePoison := rfl
@[simp] theorem State.setWgAt_tlb (s : State) (n : Nat) (g : Wg) : (s.setWgAt n g).tlb = s.tlb := rfl
@[simp] theorem State.setWgAt_xlq (s : State) (n : Nat) (g : Wg) : (s.setWgAt n g).xlq = s.xlq := rfl
@[simp] theorem State.setWgAt_inval (s : State) (n : Nat) (g : Wg) : (s.setWgAt n g).inval = s.inval := rfl
@[simp] theorem State.setWgAt_zmap (s : State) (n : Nat) (g : Wg) : (s.setWgAt n g).zmap = s.zmap := rfl
@[simp] theorem State.setWgAt_reds (s : State) (n : Nat) (g : Wg) : (s.setWgAt n g).reds = s.reds := rfl
@[simp] theorem State.setWgAt_nextSeq (s : State) (n : Nat) (g : Wg) : (s.setWgAt n g).nextSeq = s.nextSeq := rfl
@[simp] theorem State.setWgAt_grids (s : State) (n : Nat) (g : Wg) : (s.setWgAt n g).grids = s.grids := rfl
@[simp] theorem State.setWgAt_nextWg (s : State) (n : Nat) (g : Wg) : (s.setWgAt n g).nextWg = s.nextWg := rfl
@[simp] theorem State.setWgAt_warps (s : State) (n : Nat) (g : Wg) : (s.setWgAt n g).warps = s.warps := rfl
@[simp] theorem State.setWgAt_cores (s : State) (n : Nat) (g : Wg) : (s.setWgAt n g).cores = s.cores := rfl
@[simp] theorem State.setWgAt_dies (s : State) (n : Nat) (g : Wg) : (s.setWgAt n g).dies = s.dies := rfl
@[simp] theorem State.setWgAt_ctxs (s : State) (n : Nat) (g : Wg) : (s.setWgAt n g).ctxs = s.ctxs := rfl
@[simp] theorem State.setWgAt_hostqs (s : State) (n : Nat) (g : Wg) : (s.setWgAt n g).hostqs = s.hostqs := rfl
@[simp] theorem State.setWgAt_nextCmd (s : State) (n : Nat) (g : Wg) : (s.setWgAt n g).nextCmd = s.nextCmd := rfl
@[simp] theorem State.setWgAt_frozen (s : State) (n : Nat) (g : Wg) : (s.setWgAt n g).frozen = s.frozen := rfl
@[simp] theorem State.setWgAt_booted (s : State) (n : Nat) (g : Wg) : (s.setWgAt n g).booted = s.booted := rfl
@[simp] theorem State.setWgAt_bootFailed (s : State) (n : Nat) (g : Wg) : (s.setWgAt n g).bootFailed = s.bootFailed := rfl
@[simp] theorem State.setWgAt_cfgReplies (s : State) (n : Nat) (g : Wg) : (s.setWgAt n g).cfgReplies = s.cfgReplies := rfl
@[simp] theorem State.setWgAt_attested (s : State) (n : Nat) (g : Wg) : (s.setWgAt n g).attested = s.attested := rfl
@[simp] theorem State.setWgAt_bar2win (s : State) (n : Nat) (g : Wg) : (s.setWgAt n g).bar2win = s.bar2win := rfl
@[simp] theorem State.setWgAt_evcause (s : State) (n : Nat) (g : Wg) : (s.setWgAt n g).evcause = s.evcause := rfl
@[simp] theorem State.setWgAt_peerTable (s : State) (n : Nat) (g : Wg) : (s.setWgAt n g).peerTable = s.peerTable := rfl
@[simp] theorem State.setWgAt_exportTable (s : State) (n : Nat) (g : Wg) : (s.setWgAt n g).exportTable = s.exportTable := rfl
@[simp] theorem State.setWgAt_msixTable (s : State) (n : Nat) (g : Wg) : (s.setWgAt n g).msixTable = s.msixTable := rfl
@[simp] theorem State.setWgAt_msixPending (s : State) (n : Nat) (g : Wg) : (s.setWgAt n g).msixPending = s.msixPending := rfl
@[simp] theorem State.setWgAt_msix (s : State) (n : Nat) (g : Wg) : (s.setWgAt n g).msix = s.msix := rfl
@[simp] theorem State.setWgAt_portsFrozen (s : State) (n : Nat) (g : Wg) : (s.setWgAt n g).portsFrozen = s.portsFrozen := rfl
@[simp] theorem State.setWgAt_firmware (s : State) (n : Nat) (g : Wg) : (s.setWgAt n g).firmware = s.firmware := rfl
@[simp] theorem State.setWgAt_icinvs (s : State) (n : Nat) (g : Wg) : (s.setWgAt n g).icinvs = s.icinvs := rfl
@[simp] theorem State.setWgAt_portHeld (s : State) (n : Nat) (g : Wg) : (s.setWgAt n g).portHeld = s.portHeld := rfl
@[simp] theorem State.setWgAt_moves (s : State) (n : Nat) (g : Wg) : (s.setWgAt n g).moves = s.moves := rfl
@[simp] theorem State.setWgAt_inputs (s : State) (n : Nat) (g : Wg) : (s.setWgAt n g).inputs = s.inputs := rfl
@[simp] theorem State.setWgAt_supply (s : State) (n : Nat) (g : Wg) : (s.setWgAt n g).supply = s.supply := rfl
@[simp] theorem State.setWgAt_free (s : State) (n : Nat) (g : Wg) : (s.setWgAt n g).free = s.free := rfl
@[simp] theorem State.setWgAt_agenda (s : State) (n : Nat) (g : Wg) : (s.setWgAt n g).agenda = s.agenda := rfl
@[simp] theorem State.setWgAt_cur (s : State) (n : Nat) (g : Wg) : (s.setWgAt n g).cur = s.cur := rfl
@[simp] theorem State.setWgAt_iw (s : State) (n : Nat) (g : Wg) : (s.setWgAt n g).iw = s.iw := rfl

@[simp] theorem State.setGridAt_mem (s : State) (q : Nat) (g : Grid) : (s.setGridAt q g).mem = s.mem := rfl
@[simp] theorem State.setGridAt_linePoison (s : State) (q : Nat) (g : Grid) : (s.setGridAt q g).linePoison = s.linePoison := rfl
@[simp] theorem State.setGridAt_tlb (s : State) (q : Nat) (g : Grid) : (s.setGridAt q g).tlb = s.tlb := rfl
@[simp] theorem State.setGridAt_xlq (s : State) (q : Nat) (g : Grid) : (s.setGridAt q g).xlq = s.xlq := rfl
@[simp] theorem State.setGridAt_inval (s : State) (q : Nat) (g : Grid) : (s.setGridAt q g).inval = s.inval := rfl
@[simp] theorem State.setGridAt_zmap (s : State) (q : Nat) (g : Grid) : (s.setGridAt q g).zmap = s.zmap := rfl
@[simp] theorem State.setGridAt_reds (s : State) (q : Nat) (g : Grid) : (s.setGridAt q g).reds = s.reds := rfl
@[simp] theorem State.setGridAt_nextSeq (s : State) (q : Nat) (g : Grid) : (s.setGridAt q g).nextSeq = s.nextSeq := rfl
@[simp] theorem State.setGridAt_wgs (s : State) (q : Nat) (g : Grid) : (s.setGridAt q g).wgs = s.wgs := rfl
@[simp] theorem State.setGridAt_nextWg (s : State) (q : Nat) (g : Grid) : (s.setGridAt q g).nextWg = s.nextWg := rfl
@[simp] theorem State.setGridAt_warps (s : State) (q : Nat) (g : Grid) : (s.setGridAt q g).warps = s.warps := rfl
@[simp] theorem State.setGridAt_cores (s : State) (q : Nat) (g : Grid) : (s.setGridAt q g).cores = s.cores := rfl
@[simp] theorem State.setGridAt_dies (s : State) (q : Nat) (g : Grid) : (s.setGridAt q g).dies = s.dies := rfl
@[simp] theorem State.setGridAt_ctxs (s : State) (q : Nat) (g : Grid) : (s.setGridAt q g).ctxs = s.ctxs := rfl
@[simp] theorem State.setGridAt_hostqs (s : State) (q : Nat) (g : Grid) : (s.setGridAt q g).hostqs = s.hostqs := rfl
@[simp] theorem State.setGridAt_nextCmd (s : State) (q : Nat) (g : Grid) : (s.setGridAt q g).nextCmd = s.nextCmd := rfl
@[simp] theorem State.setGridAt_frozen (s : State) (q : Nat) (g : Grid) : (s.setGridAt q g).frozen = s.frozen := rfl
@[simp] theorem State.setGridAt_booted (s : State) (q : Nat) (g : Grid) : (s.setGridAt q g).booted = s.booted := rfl
@[simp] theorem State.setGridAt_bootFailed (s : State) (q : Nat) (g : Grid) : (s.setGridAt q g).bootFailed = s.bootFailed := rfl
@[simp] theorem State.setGridAt_cfgReplies (s : State) (q : Nat) (g : Grid) : (s.setGridAt q g).cfgReplies = s.cfgReplies := rfl
@[simp] theorem State.setGridAt_attested (s : State) (q : Nat) (g : Grid) : (s.setGridAt q g).attested = s.attested := rfl
@[simp] theorem State.setGridAt_bar2win (s : State) (q : Nat) (g : Grid) : (s.setGridAt q g).bar2win = s.bar2win := rfl
@[simp] theorem State.setGridAt_evcause (s : State) (q : Nat) (g : Grid) : (s.setGridAt q g).evcause = s.evcause := rfl
@[simp] theorem State.setGridAt_peerTable (s : State) (q : Nat) (g : Grid) : (s.setGridAt q g).peerTable = s.peerTable := rfl
@[simp] theorem State.setGridAt_exportTable (s : State) (q : Nat) (g : Grid) : (s.setGridAt q g).exportTable = s.exportTable := rfl
@[simp] theorem State.setGridAt_msixTable (s : State) (q : Nat) (g : Grid) : (s.setGridAt q g).msixTable = s.msixTable := rfl
@[simp] theorem State.setGridAt_msixPending (s : State) (q : Nat) (g : Grid) : (s.setGridAt q g).msixPending = s.msixPending := rfl
@[simp] theorem State.setGridAt_msix (s : State) (q : Nat) (g : Grid) : (s.setGridAt q g).msix = s.msix := rfl
@[simp] theorem State.setGridAt_portsFrozen (s : State) (q : Nat) (g : Grid) : (s.setGridAt q g).portsFrozen = s.portsFrozen := rfl
@[simp] theorem State.setGridAt_firmware (s : State) (q : Nat) (g : Grid) : (s.setGridAt q g).firmware = s.firmware := rfl
@[simp] theorem State.setGridAt_icinvs (s : State) (q : Nat) (g : Grid) : (s.setGridAt q g).icinvs = s.icinvs := rfl
@[simp] theorem State.setGridAt_portHeld (s : State) (q : Nat) (g : Grid) : (s.setGridAt q g).portHeld = s.portHeld := rfl
@[simp] theorem State.setGridAt_moves (s : State) (q : Nat) (g : Grid) : (s.setGridAt q g).moves = s.moves := rfl
@[simp] theorem State.setGridAt_inputs (s : State) (q : Nat) (g : Grid) : (s.setGridAt q g).inputs = s.inputs := rfl
@[simp] theorem State.setGridAt_supply (s : State) (q : Nat) (g : Grid) : (s.setGridAt q g).supply = s.supply := rfl
@[simp] theorem State.setGridAt_free (s : State) (q : Nat) (g : Grid) : (s.setGridAt q g).free = s.free := rfl
@[simp] theorem State.setGridAt_agenda (s : State) (q : Nat) (g : Grid) : (s.setGridAt q g).agenda = s.agenda := rfl
@[simp] theorem State.setGridAt_cur (s : State) (q : Nat) (g : Grid) : (s.setGridAt q g).cur = s.cur := rfl
@[simp] theorem State.setGridAt_iw (s : State) (q : Nat) (g : Grid) : (s.setGridAt q g).iw = s.iw := rfl

@[simp] theorem State.setCoreAt_mem (s : State) (c : Nat) (x : Core) : (s.setCoreAt c x).mem = s.mem := rfl
@[simp] theorem State.setCoreAt_linePoison (s : State) (c : Nat) (x : Core) : (s.setCoreAt c x).linePoison = s.linePoison := rfl
@[simp] theorem State.setCoreAt_tlb (s : State) (c : Nat) (x : Core) : (s.setCoreAt c x).tlb = s.tlb := rfl
@[simp] theorem State.setCoreAt_xlq (s : State) (c : Nat) (x : Core) : (s.setCoreAt c x).xlq = s.xlq := rfl
@[simp] theorem State.setCoreAt_inval (s : State) (c : Nat) (x : Core) : (s.setCoreAt c x).inval = s.inval := rfl
@[simp] theorem State.setCoreAt_zmap (s : State) (c : Nat) (x : Core) : (s.setCoreAt c x).zmap = s.zmap := rfl
@[simp] theorem State.setCoreAt_reds (s : State) (c : Nat) (x : Core) : (s.setCoreAt c x).reds = s.reds := rfl
@[simp] theorem State.setCoreAt_nextSeq (s : State) (c : Nat) (x : Core) : (s.setCoreAt c x).nextSeq = s.nextSeq := rfl
@[simp] theorem State.setCoreAt_grids (s : State) (c : Nat) (x : Core) : (s.setCoreAt c x).grids = s.grids := rfl
@[simp] theorem State.setCoreAt_wgs (s : State) (c : Nat) (x : Core) : (s.setCoreAt c x).wgs = s.wgs := rfl
@[simp] theorem State.setCoreAt_nextWg (s : State) (c : Nat) (x : Core) : (s.setCoreAt c x).nextWg = s.nextWg := rfl
@[simp] theorem State.setCoreAt_warps (s : State) (c : Nat) (x : Core) : (s.setCoreAt c x).warps = s.warps := rfl
@[simp] theorem State.setCoreAt_dies (s : State) (c : Nat) (x : Core) : (s.setCoreAt c x).dies = s.dies := rfl
@[simp] theorem State.setCoreAt_ctxs (s : State) (c : Nat) (x : Core) : (s.setCoreAt c x).ctxs = s.ctxs := rfl
@[simp] theorem State.setCoreAt_hostqs (s : State) (c : Nat) (x : Core) : (s.setCoreAt c x).hostqs = s.hostqs := rfl
@[simp] theorem State.setCoreAt_nextCmd (s : State) (c : Nat) (x : Core) : (s.setCoreAt c x).nextCmd = s.nextCmd := rfl
@[simp] theorem State.setCoreAt_frozen (s : State) (c : Nat) (x : Core) : (s.setCoreAt c x).frozen = s.frozen := rfl
@[simp] theorem State.setCoreAt_booted (s : State) (c : Nat) (x : Core) : (s.setCoreAt c x).booted = s.booted := rfl
@[simp] theorem State.setCoreAt_bootFailed (s : State) (c : Nat) (x : Core) : (s.setCoreAt c x).bootFailed = s.bootFailed := rfl
@[simp] theorem State.setCoreAt_cfgReplies (s : State) (c : Nat) (x : Core) : (s.setCoreAt c x).cfgReplies = s.cfgReplies := rfl
@[simp] theorem State.setCoreAt_attested (s : State) (c : Nat) (x : Core) : (s.setCoreAt c x).attested = s.attested := rfl
@[simp] theorem State.setCoreAt_bar2win (s : State) (c : Nat) (x : Core) : (s.setCoreAt c x).bar2win = s.bar2win := rfl
@[simp] theorem State.setCoreAt_evcause (s : State) (c : Nat) (x : Core) : (s.setCoreAt c x).evcause = s.evcause := rfl
@[simp] theorem State.setCoreAt_peerTable (s : State) (c : Nat) (x : Core) : (s.setCoreAt c x).peerTable = s.peerTable := rfl
@[simp] theorem State.setCoreAt_exportTable (s : State) (c : Nat) (x : Core) : (s.setCoreAt c x).exportTable = s.exportTable := rfl
@[simp] theorem State.setCoreAt_msixTable (s : State) (c : Nat) (x : Core) : (s.setCoreAt c x).msixTable = s.msixTable := rfl
@[simp] theorem State.setCoreAt_msixPending (s : State) (c : Nat) (x : Core) : (s.setCoreAt c x).msixPending = s.msixPending := rfl
@[simp] theorem State.setCoreAt_msix (s : State) (c : Nat) (x : Core) : (s.setCoreAt c x).msix = s.msix := rfl
@[simp] theorem State.setCoreAt_portsFrozen (s : State) (c : Nat) (x : Core) : (s.setCoreAt c x).portsFrozen = s.portsFrozen := rfl
@[simp] theorem State.setCoreAt_firmware (s : State) (c : Nat) (x : Core) : (s.setCoreAt c x).firmware = s.firmware := rfl
@[simp] theorem State.setCoreAt_icinvs (s : State) (c : Nat) (x : Core) : (s.setCoreAt c x).icinvs = s.icinvs := rfl
@[simp] theorem State.setCoreAt_portHeld (s : State) (c : Nat) (x : Core) : (s.setCoreAt c x).portHeld = s.portHeld := rfl
@[simp] theorem State.setCoreAt_moves (s : State) (c : Nat) (x : Core) : (s.setCoreAt c x).moves = s.moves := rfl
@[simp] theorem State.setCoreAt_inputs (s : State) (c : Nat) (x : Core) : (s.setCoreAt c x).inputs = s.inputs := rfl
@[simp] theorem State.setCoreAt_supply (s : State) (c : Nat) (x : Core) : (s.setCoreAt c x).supply = s.supply := rfl
@[simp] theorem State.setCoreAt_free (s : State) (c : Nat) (x : Core) : (s.setCoreAt c x).free = s.free := rfl
@[simp] theorem State.setCoreAt_agenda (s : State) (c : Nat) (x : Core) : (s.setCoreAt c x).agenda = s.agenda := rfl
@[simp] theorem State.setCoreAt_cur (s : State) (c : Nat) (x : Core) : (s.setCoreAt c x).cur = s.cur := rfl
@[simp] theorem State.setCoreAt_iw (s : State) (c : Nat) (x : Core) : (s.setCoreAt c x).iw = s.iw := rfl

@[simp] theorem State.setDieAt_mem (s : State) (d : Nat) (x : Die) : (s.setDieAt d x).mem = s.mem := rfl
@[simp] theorem State.setDieAt_linePoison (s : State) (d : Nat) (x : Die) : (s.setDieAt d x).linePoison = s.linePoison := rfl
@[simp] theorem State.setDieAt_tlb (s : State) (d : Nat) (x : Die) : (s.setDieAt d x).tlb = s.tlb := rfl
@[simp] theorem State.setDieAt_xlq (s : State) (d : Nat) (x : Die) : (s.setDieAt d x).xlq = s.xlq := rfl
@[simp] theorem State.setDieAt_inval (s : State) (d : Nat) (x : Die) : (s.setDieAt d x).inval = s.inval := rfl
@[simp] theorem State.setDieAt_zmap (s : State) (d : Nat) (x : Die) : (s.setDieAt d x).zmap = s.zmap := rfl
@[simp] theorem State.setDieAt_reds (s : State) (d : Nat) (x : Die) : (s.setDieAt d x).reds = s.reds := rfl
@[simp] theorem State.setDieAt_nextSeq (s : State) (d : Nat) (x : Die) : (s.setDieAt d x).nextSeq = s.nextSeq := rfl
@[simp] theorem State.setDieAt_grids (s : State) (d : Nat) (x : Die) : (s.setDieAt d x).grids = s.grids := rfl
@[simp] theorem State.setDieAt_wgs (s : State) (d : Nat) (x : Die) : (s.setDieAt d x).wgs = s.wgs := rfl
@[simp] theorem State.setDieAt_nextWg (s : State) (d : Nat) (x : Die) : (s.setDieAt d x).nextWg = s.nextWg := rfl
@[simp] theorem State.setDieAt_warps (s : State) (d : Nat) (x : Die) : (s.setDieAt d x).warps = s.warps := rfl
@[simp] theorem State.setDieAt_cores (s : State) (d : Nat) (x : Die) : (s.setDieAt d x).cores = s.cores := rfl
@[simp] theorem State.setDieAt_ctxs (s : State) (d : Nat) (x : Die) : (s.setDieAt d x).ctxs = s.ctxs := rfl
@[simp] theorem State.setDieAt_hostqs (s : State) (d : Nat) (x : Die) : (s.setDieAt d x).hostqs = s.hostqs := rfl
@[simp] theorem State.setDieAt_nextCmd (s : State) (d : Nat) (x : Die) : (s.setDieAt d x).nextCmd = s.nextCmd := rfl
@[simp] theorem State.setDieAt_frozen (s : State) (d : Nat) (x : Die) : (s.setDieAt d x).frozen = s.frozen := rfl
@[simp] theorem State.setDieAt_booted (s : State) (d : Nat) (x : Die) : (s.setDieAt d x).booted = s.booted := rfl
@[simp] theorem State.setDieAt_bootFailed (s : State) (d : Nat) (x : Die) : (s.setDieAt d x).bootFailed = s.bootFailed := rfl
@[simp] theorem State.setDieAt_cfgReplies (s : State) (d : Nat) (x : Die) : (s.setDieAt d x).cfgReplies = s.cfgReplies := rfl
@[simp] theorem State.setDieAt_attested (s : State) (d : Nat) (x : Die) : (s.setDieAt d x).attested = s.attested := rfl
@[simp] theorem State.setDieAt_bar2win (s : State) (d : Nat) (x : Die) : (s.setDieAt d x).bar2win = s.bar2win := rfl
@[simp] theorem State.setDieAt_evcause (s : State) (d : Nat) (x : Die) : (s.setDieAt d x).evcause = s.evcause := rfl
@[simp] theorem State.setDieAt_peerTable (s : State) (d : Nat) (x : Die) : (s.setDieAt d x).peerTable = s.peerTable := rfl
@[simp] theorem State.setDieAt_exportTable (s : State) (d : Nat) (x : Die) : (s.setDieAt d x).exportTable = s.exportTable := rfl
@[simp] theorem State.setDieAt_msixTable (s : State) (d : Nat) (x : Die) : (s.setDieAt d x).msixTable = s.msixTable := rfl
@[simp] theorem State.setDieAt_msixPending (s : State) (d : Nat) (x : Die) : (s.setDieAt d x).msixPending = s.msixPending := rfl
@[simp] theorem State.setDieAt_msix (s : State) (d : Nat) (x : Die) : (s.setDieAt d x).msix = s.msix := rfl
@[simp] theorem State.setDieAt_portsFrozen (s : State) (d : Nat) (x : Die) : (s.setDieAt d x).portsFrozen = s.portsFrozen := rfl
@[simp] theorem State.setDieAt_firmware (s : State) (d : Nat) (x : Die) : (s.setDieAt d x).firmware = s.firmware := rfl
@[simp] theorem State.setDieAt_icinvs (s : State) (d : Nat) (x : Die) : (s.setDieAt d x).icinvs = s.icinvs := rfl
@[simp] theorem State.setDieAt_portHeld (s : State) (d : Nat) (x : Die) : (s.setDieAt d x).portHeld = s.portHeld := rfl
@[simp] theorem State.setDieAt_moves (s : State) (d : Nat) (x : Die) : (s.setDieAt d x).moves = s.moves := rfl
@[simp] theorem State.setDieAt_inputs (s : State) (d : Nat) (x : Die) : (s.setDieAt d x).inputs = s.inputs := rfl
@[simp] theorem State.setDieAt_supply (s : State) (d : Nat) (x : Die) : (s.setDieAt d x).supply = s.supply := rfl
@[simp] theorem State.setDieAt_free (s : State) (d : Nat) (x : Die) : (s.setDieAt d x).free = s.free := rfl
@[simp] theorem State.setDieAt_agenda (s : State) (d : Nat) (x : Die) : (s.setDieAt d x).agenda = s.agenda := rfl
@[simp] theorem State.setDieAt_cur (s : State) (d : Nat) (x : Die) : (s.setDieAt d x).cur = s.cur := rfl
@[simp] theorem State.setDieAt_iw (s : State) (d : Nat) (x : Die) : (s.setDieAt d x).iw = s.iw := rfl

@[simp] theorem State.setCtxAt_mem (s : State) (c : Nat) (x : Ctx) : (s.setCtxAt c x).mem = s.mem := rfl
@[simp] theorem State.setCtxAt_linePoison (s : State) (c : Nat) (x : Ctx) : (s.setCtxAt c x).linePoison = s.linePoison := rfl
@[simp] theorem State.setCtxAt_tlb (s : State) (c : Nat) (x : Ctx) : (s.setCtxAt c x).tlb = s.tlb := rfl
@[simp] theorem State.setCtxAt_xlq (s : State) (c : Nat) (x : Ctx) : (s.setCtxAt c x).xlq = s.xlq := rfl
@[simp] theorem State.setCtxAt_inval (s : State) (c : Nat) (x : Ctx) : (s.setCtxAt c x).inval = s.inval := rfl
@[simp] theorem State.setCtxAt_zmap (s : State) (c : Nat) (x : Ctx) : (s.setCtxAt c x).zmap = s.zmap := rfl
@[simp] theorem State.setCtxAt_reds (s : State) (c : Nat) (x : Ctx) : (s.setCtxAt c x).reds = s.reds := rfl
@[simp] theorem State.setCtxAt_nextSeq (s : State) (c : Nat) (x : Ctx) : (s.setCtxAt c x).nextSeq = s.nextSeq := rfl
@[simp] theorem State.setCtxAt_grids (s : State) (c : Nat) (x : Ctx) : (s.setCtxAt c x).grids = s.grids := rfl
@[simp] theorem State.setCtxAt_wgs (s : State) (c : Nat) (x : Ctx) : (s.setCtxAt c x).wgs = s.wgs := rfl
@[simp] theorem State.setCtxAt_nextWg (s : State) (c : Nat) (x : Ctx) : (s.setCtxAt c x).nextWg = s.nextWg := rfl
@[simp] theorem State.setCtxAt_warps (s : State) (c : Nat) (x : Ctx) : (s.setCtxAt c x).warps = s.warps := rfl
@[simp] theorem State.setCtxAt_cores (s : State) (c : Nat) (x : Ctx) : (s.setCtxAt c x).cores = s.cores := rfl
@[simp] theorem State.setCtxAt_dies (s : State) (c : Nat) (x : Ctx) : (s.setCtxAt c x).dies = s.dies := rfl
@[simp] theorem State.setCtxAt_hostqs (s : State) (c : Nat) (x : Ctx) : (s.setCtxAt c x).hostqs = s.hostqs := rfl
@[simp] theorem State.setCtxAt_nextCmd (s : State) (c : Nat) (x : Ctx) : (s.setCtxAt c x).nextCmd = s.nextCmd := rfl
@[simp] theorem State.setCtxAt_frozen (s : State) (c : Nat) (x : Ctx) : (s.setCtxAt c x).frozen = s.frozen := rfl
@[simp] theorem State.setCtxAt_booted (s : State) (c : Nat) (x : Ctx) : (s.setCtxAt c x).booted = s.booted := rfl
@[simp] theorem State.setCtxAt_bootFailed (s : State) (c : Nat) (x : Ctx) : (s.setCtxAt c x).bootFailed = s.bootFailed := rfl
@[simp] theorem State.setCtxAt_cfgReplies (s : State) (c : Nat) (x : Ctx) : (s.setCtxAt c x).cfgReplies = s.cfgReplies := rfl
@[simp] theorem State.setCtxAt_attested (s : State) (c : Nat) (x : Ctx) : (s.setCtxAt c x).attested = s.attested := rfl
@[simp] theorem State.setCtxAt_bar2win (s : State) (c : Nat) (x : Ctx) : (s.setCtxAt c x).bar2win = s.bar2win := rfl
@[simp] theorem State.setCtxAt_evcause (s : State) (c : Nat) (x : Ctx) : (s.setCtxAt c x).evcause = s.evcause := rfl
@[simp] theorem State.setCtxAt_peerTable (s : State) (c : Nat) (x : Ctx) : (s.setCtxAt c x).peerTable = s.peerTable := rfl
@[simp] theorem State.setCtxAt_exportTable (s : State) (c : Nat) (x : Ctx) : (s.setCtxAt c x).exportTable = s.exportTable := rfl
@[simp] theorem State.setCtxAt_msixTable (s : State) (c : Nat) (x : Ctx) : (s.setCtxAt c x).msixTable = s.msixTable := rfl
@[simp] theorem State.setCtxAt_msixPending (s : State) (c : Nat) (x : Ctx) : (s.setCtxAt c x).msixPending = s.msixPending := rfl
@[simp] theorem State.setCtxAt_msix (s : State) (c : Nat) (x : Ctx) : (s.setCtxAt c x).msix = s.msix := rfl
@[simp] theorem State.setCtxAt_portsFrozen (s : State) (c : Nat) (x : Ctx) : (s.setCtxAt c x).portsFrozen = s.portsFrozen := rfl
@[simp] theorem State.setCtxAt_firmware (s : State) (c : Nat) (x : Ctx) : (s.setCtxAt c x).firmware = s.firmware := rfl
@[simp] theorem State.setCtxAt_icinvs (s : State) (c : Nat) (x : Ctx) : (s.setCtxAt c x).icinvs = s.icinvs := rfl
@[simp] theorem State.setCtxAt_portHeld (s : State) (c : Nat) (x : Ctx) : (s.setCtxAt c x).portHeld = s.portHeld := rfl
@[simp] theorem State.setCtxAt_moves (s : State) (c : Nat) (x : Ctx) : (s.setCtxAt c x).moves = s.moves := rfl
@[simp] theorem State.setCtxAt_inputs (s : State) (c : Nat) (x : Ctx) : (s.setCtxAt c x).inputs = s.inputs := rfl
@[simp] theorem State.setCtxAt_supply (s : State) (c : Nat) (x : Ctx) : (s.setCtxAt c x).supply = s.supply := rfl
@[simp] theorem State.setCtxAt_free (s : State) (c : Nat) (x : Ctx) : (s.setCtxAt c x).free = s.free := rfl
@[simp] theorem State.setCtxAt_agenda (s : State) (c : Nat) (x : Ctx) : (s.setCtxAt c x).agenda = s.agenda := rfl
@[simp] theorem State.setCtxAt_cur (s : State) (c : Nat) (x : Ctx) : (s.setCtxAt c x).cur = s.cur := rfl
@[simp] theorem State.setCtxAt_iw (s : State) (c : Nat) (x : Ctx) : (s.setCtxAt c x).iw = s.iw := rfl

@[simp] theorem State.setHostqAt_mem (s : State) (q : Nat) (x : HostQ) : (s.setHostqAt q x).mem = s.mem := rfl
@[simp] theorem State.setHostqAt_linePoison (s : State) (q : Nat) (x : HostQ) : (s.setHostqAt q x).linePoison = s.linePoison := rfl
@[simp] theorem State.setHostqAt_tlb (s : State) (q : Nat) (x : HostQ) : (s.setHostqAt q x).tlb = s.tlb := rfl
@[simp] theorem State.setHostqAt_xlq (s : State) (q : Nat) (x : HostQ) : (s.setHostqAt q x).xlq = s.xlq := rfl
@[simp] theorem State.setHostqAt_inval (s : State) (q : Nat) (x : HostQ) : (s.setHostqAt q x).inval = s.inval := rfl
@[simp] theorem State.setHostqAt_zmap (s : State) (q : Nat) (x : HostQ) : (s.setHostqAt q x).zmap = s.zmap := rfl
@[simp] theorem State.setHostqAt_reds (s : State) (q : Nat) (x : HostQ) : (s.setHostqAt q x).reds = s.reds := rfl
@[simp] theorem State.setHostqAt_nextSeq (s : State) (q : Nat) (x : HostQ) : (s.setHostqAt q x).nextSeq = s.nextSeq := rfl
@[simp] theorem State.setHostqAt_grids (s : State) (q : Nat) (x : HostQ) : (s.setHostqAt q x).grids = s.grids := rfl
@[simp] theorem State.setHostqAt_wgs (s : State) (q : Nat) (x : HostQ) : (s.setHostqAt q x).wgs = s.wgs := rfl
@[simp] theorem State.setHostqAt_nextWg (s : State) (q : Nat) (x : HostQ) : (s.setHostqAt q x).nextWg = s.nextWg := rfl
@[simp] theorem State.setHostqAt_warps (s : State) (q : Nat) (x : HostQ) : (s.setHostqAt q x).warps = s.warps := rfl
@[simp] theorem State.setHostqAt_cores (s : State) (q : Nat) (x : HostQ) : (s.setHostqAt q x).cores = s.cores := rfl
@[simp] theorem State.setHostqAt_dies (s : State) (q : Nat) (x : HostQ) : (s.setHostqAt q x).dies = s.dies := rfl
@[simp] theorem State.setHostqAt_ctxs (s : State) (q : Nat) (x : HostQ) : (s.setHostqAt q x).ctxs = s.ctxs := rfl
@[simp] theorem State.setHostqAt_nextCmd (s : State) (q : Nat) (x : HostQ) : (s.setHostqAt q x).nextCmd = s.nextCmd := rfl
@[simp] theorem State.setHostqAt_frozen (s : State) (q : Nat) (x : HostQ) : (s.setHostqAt q x).frozen = s.frozen := rfl
@[simp] theorem State.setHostqAt_booted (s : State) (q : Nat) (x : HostQ) : (s.setHostqAt q x).booted = s.booted := rfl
@[simp] theorem State.setHostqAt_bootFailed (s : State) (q : Nat) (x : HostQ) : (s.setHostqAt q x).bootFailed = s.bootFailed := rfl
@[simp] theorem State.setHostqAt_cfgReplies (s : State) (q : Nat) (x : HostQ) : (s.setHostqAt q x).cfgReplies = s.cfgReplies := rfl
@[simp] theorem State.setHostqAt_attested (s : State) (q : Nat) (x : HostQ) : (s.setHostqAt q x).attested = s.attested := rfl
@[simp] theorem State.setHostqAt_bar2win (s : State) (q : Nat) (x : HostQ) : (s.setHostqAt q x).bar2win = s.bar2win := rfl
@[simp] theorem State.setHostqAt_evcause (s : State) (q : Nat) (x : HostQ) : (s.setHostqAt q x).evcause = s.evcause := rfl
@[simp] theorem State.setHostqAt_peerTable (s : State) (q : Nat) (x : HostQ) : (s.setHostqAt q x).peerTable = s.peerTable := rfl
@[simp] theorem State.setHostqAt_exportTable (s : State) (q : Nat) (x : HostQ) : (s.setHostqAt q x).exportTable = s.exportTable := rfl
@[simp] theorem State.setHostqAt_msixTable (s : State) (q : Nat) (x : HostQ) : (s.setHostqAt q x).msixTable = s.msixTable := rfl
@[simp] theorem State.setHostqAt_msixPending (s : State) (q : Nat) (x : HostQ) : (s.setHostqAt q x).msixPending = s.msixPending := rfl
@[simp] theorem State.setHostqAt_msix (s : State) (q : Nat) (x : HostQ) : (s.setHostqAt q x).msix = s.msix := rfl
@[simp] theorem State.setHostqAt_portsFrozen (s : State) (q : Nat) (x : HostQ) : (s.setHostqAt q x).portsFrozen = s.portsFrozen := rfl
@[simp] theorem State.setHostqAt_firmware (s : State) (q : Nat) (x : HostQ) : (s.setHostqAt q x).firmware = s.firmware := rfl
@[simp] theorem State.setHostqAt_icinvs (s : State) (q : Nat) (x : HostQ) : (s.setHostqAt q x).icinvs = s.icinvs := rfl
@[simp] theorem State.setHostqAt_portHeld (s : State) (q : Nat) (x : HostQ) : (s.setHostqAt q x).portHeld = s.portHeld := rfl
@[simp] theorem State.setHostqAt_moves (s : State) (q : Nat) (x : HostQ) : (s.setHostqAt q x).moves = s.moves := rfl
@[simp] theorem State.setHostqAt_inputs (s : State) (q : Nat) (x : HostQ) : (s.setHostqAt q x).inputs = s.inputs := rfl
@[simp] theorem State.setHostqAt_supply (s : State) (q : Nat) (x : HostQ) : (s.setHostqAt q x).supply = s.supply := rfl
@[simp] theorem State.setHostqAt_free (s : State) (q : Nat) (x : HostQ) : (s.setHostqAt q x).free = s.free := rfl
@[simp] theorem State.setHostqAt_agenda (s : State) (q : Nat) (x : HostQ) : (s.setHostqAt q x).agenda = s.agenda := rfl
@[simp] theorem State.setHostqAt_cur (s : State) (q : Nat) (x : HostQ) : (s.setHostqAt q x).cur = s.cur := rfl
@[simp] theorem State.setHostqAt_iw (s : State) (q : Nat) (x : HostQ) : (s.setHostqAt q x).iw = s.iw := rfl

@[simp] theorem State.setWarp_mem (s : State) (w : Warp) : (s.setWarp w).mem = s.mem := rfl
@[simp] theorem State.setWarp_linePoison (s : State) (w : Warp) : (s.setWarp w).linePoison = s.linePoison := rfl
@[simp] theorem State.setWarp_tlb (s : State) (w : Warp) : (s.setWarp w).tlb = s.tlb := rfl
@[simp] theorem State.setWarp_xlq (s : State) (w : Warp) : (s.setWarp w).xlq = s.xlq := rfl
@[simp] theorem State.setWarp_inval (s : State) (w : Warp) : (s.setWarp w).inval = s.inval := rfl
@[simp] theorem State.setWarp_zmap (s : State) (w : Warp) : (s.setWarp w).zmap = s.zmap := rfl
@[simp] theorem State.setWarp_reds (s : State) (w : Warp) : (s.setWarp w).reds = s.reds := rfl
@[simp] theorem State.setWarp_nextSeq (s : State) (w : Warp) : (s.setWarp w).nextSeq = s.nextSeq := rfl
@[simp] theorem State.setWarp_grids (s : State) (w : Warp) : (s.setWarp w).grids = s.grids := rfl
@[simp] theorem State.setWarp_wgs (s : State) (w : Warp) : (s.setWarp w).wgs = s.wgs := rfl
@[simp] theorem State.setWarp_nextWg (s : State) (w : Warp) : (s.setWarp w).nextWg = s.nextWg := rfl
@[simp] theorem State.setWarp_cores (s : State) (w : Warp) : (s.setWarp w).cores = s.cores := rfl
@[simp] theorem State.setWarp_dies (s : State) (w : Warp) : (s.setWarp w).dies = s.dies := rfl
@[simp] theorem State.setWarp_ctxs (s : State) (w : Warp) : (s.setWarp w).ctxs = s.ctxs := rfl
@[simp] theorem State.setWarp_hostqs (s : State) (w : Warp) : (s.setWarp w).hostqs = s.hostqs := rfl
@[simp] theorem State.setWarp_nextCmd (s : State) (w : Warp) : (s.setWarp w).nextCmd = s.nextCmd := rfl
@[simp] theorem State.setWarp_frozen (s : State) (w : Warp) : (s.setWarp w).frozen = s.frozen := rfl
@[simp] theorem State.setWarp_booted (s : State) (w : Warp) : (s.setWarp w).booted = s.booted := rfl
@[simp] theorem State.setWarp_bootFailed (s : State) (w : Warp) : (s.setWarp w).bootFailed = s.bootFailed := rfl
@[simp] theorem State.setWarp_cfgReplies (s : State) (w : Warp) : (s.setWarp w).cfgReplies = s.cfgReplies := rfl
@[simp] theorem State.setWarp_attested (s : State) (w : Warp) : (s.setWarp w).attested = s.attested := rfl
@[simp] theorem State.setWarp_bar2win (s : State) (w : Warp) : (s.setWarp w).bar2win = s.bar2win := rfl
@[simp] theorem State.setWarp_evcause (s : State) (w : Warp) : (s.setWarp w).evcause = s.evcause := rfl
@[simp] theorem State.setWarp_peerTable (s : State) (w : Warp) : (s.setWarp w).peerTable = s.peerTable := rfl
@[simp] theorem State.setWarp_exportTable (s : State) (w : Warp) : (s.setWarp w).exportTable = s.exportTable := rfl
@[simp] theorem State.setWarp_msixTable (s : State) (w : Warp) : (s.setWarp w).msixTable = s.msixTable := rfl
@[simp] theorem State.setWarp_msixPending (s : State) (w : Warp) : (s.setWarp w).msixPending = s.msixPending := rfl
@[simp] theorem State.setWarp_msix (s : State) (w : Warp) : (s.setWarp w).msix = s.msix := rfl
@[simp] theorem State.setWarp_portsFrozen (s : State) (w : Warp) : (s.setWarp w).portsFrozen = s.portsFrozen := rfl
@[simp] theorem State.setWarp_firmware (s : State) (w : Warp) : (s.setWarp w).firmware = s.firmware := rfl
@[simp] theorem State.setWarp_icinvs (s : State) (w : Warp) : (s.setWarp w).icinvs = s.icinvs := rfl
@[simp] theorem State.setWarp_portHeld (s : State) (w : Warp) : (s.setWarp w).portHeld = s.portHeld := rfl
@[simp] theorem State.setWarp_moves (s : State) (w : Warp) : (s.setWarp w).moves = s.moves := rfl
@[simp] theorem State.setWarp_inputs (s : State) (w : Warp) : (s.setWarp w).inputs = s.inputs := rfl
@[simp] theorem State.setWarp_supply (s : State) (w : Warp) : (s.setWarp w).supply = s.supply := rfl
@[simp] theorem State.setWarp_free (s : State) (w : Warp) : (s.setWarp w).free = s.free := rfl
@[simp] theorem State.setWarp_agenda (s : State) (w : Warp) : (s.setWarp w).agenda = s.agenda := rfl
@[simp] theorem State.setWarp_cur (s : State) (w : Warp) : (s.setWarp w).cur = s.cur := rfl
@[simp] theorem State.setWarp_iw (s : State) (w : Warp) : (s.setWarp w).iw = s.iw := rfl

@[simp] theorem State.writeMem_linePoison (s : State) (a : Nat) (b : List Byte) : (s.writeMem a b).linePoison = s.linePoison := rfl
@[simp] theorem State.writeMem_tlb (s : State) (a : Nat) (b : List Byte) : (s.writeMem a b).tlb = s.tlb := rfl
@[simp] theorem State.writeMem_xlq (s : State) (a : Nat) (b : List Byte) : (s.writeMem a b).xlq = s.xlq := rfl
@[simp] theorem State.writeMem_inval (s : State) (a : Nat) (b : List Byte) : (s.writeMem a b).inval = s.inval := rfl
@[simp] theorem State.writeMem_zmap (s : State) (a : Nat) (b : List Byte) : (s.writeMem a b).zmap = s.zmap := rfl
@[simp] theorem State.writeMem_reds (s : State) (a : Nat) (b : List Byte) : (s.writeMem a b).reds = s.reds := rfl
@[simp] theorem State.writeMem_nextSeq (s : State) (a : Nat) (b : List Byte) : (s.writeMem a b).nextSeq = s.nextSeq := rfl
@[simp] theorem State.writeMem_grids (s : State) (a : Nat) (b : List Byte) : (s.writeMem a b).grids = s.grids := rfl
@[simp] theorem State.writeMem_wgs (s : State) (a : Nat) (b : List Byte) : (s.writeMem a b).wgs = s.wgs := rfl
@[simp] theorem State.writeMem_nextWg (s : State) (a : Nat) (b : List Byte) : (s.writeMem a b).nextWg = s.nextWg := rfl
@[simp] theorem State.writeMem_warps (s : State) (a : Nat) (b : List Byte) : (s.writeMem a b).warps = s.warps := rfl
@[simp] theorem State.writeMem_cores (s : State) (a : Nat) (b : List Byte) : (s.writeMem a b).cores = s.cores := rfl
@[simp] theorem State.writeMem_dies (s : State) (a : Nat) (b : List Byte) : (s.writeMem a b).dies = s.dies := rfl
@[simp] theorem State.writeMem_ctxs (s : State) (a : Nat) (b : List Byte) : (s.writeMem a b).ctxs = s.ctxs := rfl
@[simp] theorem State.writeMem_hostqs (s : State) (a : Nat) (b : List Byte) : (s.writeMem a b).hostqs = s.hostqs := rfl
@[simp] theorem State.writeMem_nextCmd (s : State) (a : Nat) (b : List Byte) : (s.writeMem a b).nextCmd = s.nextCmd := rfl
@[simp] theorem State.writeMem_frozen (s : State) (a : Nat) (b : List Byte) : (s.writeMem a b).frozen = s.frozen := rfl
@[simp] theorem State.writeMem_booted (s : State) (a : Nat) (b : List Byte) : (s.writeMem a b).booted = s.booted := rfl
@[simp] theorem State.writeMem_bootFailed (s : State) (a : Nat) (b : List Byte) : (s.writeMem a b).bootFailed = s.bootFailed := rfl
@[simp] theorem State.writeMem_cfgReplies (s : State) (a : Nat) (b : List Byte) : (s.writeMem a b).cfgReplies = s.cfgReplies := rfl
@[simp] theorem State.writeMem_attested (s : State) (a : Nat) (b : List Byte) : (s.writeMem a b).attested = s.attested := rfl
@[simp] theorem State.writeMem_bar2win (s : State) (a : Nat) (b : List Byte) : (s.writeMem a b).bar2win = s.bar2win := rfl
@[simp] theorem State.writeMem_evcause (s : State) (a : Nat) (b : List Byte) : (s.writeMem a b).evcause = s.evcause := rfl
@[simp] theorem State.writeMem_peerTable (s : State) (a : Nat) (b : List Byte) : (s.writeMem a b).peerTable = s.peerTable := rfl
@[simp] theorem State.writeMem_exportTable (s : State) (a : Nat) (b : List Byte) : (s.writeMem a b).exportTable = s.exportTable := rfl
@[simp] theorem State.writeMem_msixTable (s : State) (a : Nat) (b : List Byte) : (s.writeMem a b).msixTable = s.msixTable := rfl
@[simp] theorem State.writeMem_msixPending (s : State) (a : Nat) (b : List Byte) : (s.writeMem a b).msixPending = s.msixPending := rfl
@[simp] theorem State.writeMem_msix (s : State) (a : Nat) (b : List Byte) : (s.writeMem a b).msix = s.msix := rfl
@[simp] theorem State.writeMem_portsFrozen (s : State) (a : Nat) (b : List Byte) : (s.writeMem a b).portsFrozen = s.portsFrozen := rfl
@[simp] theorem State.writeMem_firmware (s : State) (a : Nat) (b : List Byte) : (s.writeMem a b).firmware = s.firmware := rfl
@[simp] theorem State.writeMem_icinvs (s : State) (a : Nat) (b : List Byte) : (s.writeMem a b).icinvs = s.icinvs := rfl
@[simp] theorem State.writeMem_portHeld (s : State) (a : Nat) (b : List Byte) : (s.writeMem a b).portHeld = s.portHeld := rfl
@[simp] theorem State.writeMem_moves (s : State) (a : Nat) (b : List Byte) : (s.writeMem a b).moves = s.moves := rfl
@[simp] theorem State.writeMem_inputs (s : State) (a : Nat) (b : List Byte) : (s.writeMem a b).inputs = s.inputs := rfl
@[simp] theorem State.writeMem_supply (s : State) (a : Nat) (b : List Byte) : (s.writeMem a b).supply = s.supply := rfl
@[simp] theorem State.writeMem_free (s : State) (a : Nat) (b : List Byte) : (s.writeMem a b).free = s.free := rfl
@[simp] theorem State.writeMem_agenda (s : State) (a : Nat) (b : List Byte) : (s.writeMem a b).agenda = s.agenda := rfl
@[simp] theorem State.writeMem_cur (s : State) (a : Nat) (b : List Byte) : (s.writeMem a b).cur = s.cur := rfl
@[simp] theorem State.writeMem_iw (s : State) (a : Nat) (b : List Byte) : (s.writeMem a b).iw = s.iw := rfl

/-! What an accessor reads after its own update. -/

@[simp] theorem State.warpAt_setWarpAt (s : State) (k j : Nat) (w : Warp) :
    (s.setWarpAt k w).warpAt j = if j = k then w else s.warpAt j := Tab.get_put ..
@[simp] theorem State.wgAt_setWgAt (s : State) (k j : Nat) (g : Wg) :
    (s.setWgAt k g).wgAt j = if j = k then g else s.wgAt j := Tab.get_put ..
@[simp] theorem State.gridAt_setGridAt (s : State) (k j : Nat) (g : Grid) :
    (s.setGridAt k g).gridAt j = if j = k then g else s.gridAt j := Tab.get_put ..
@[simp] theorem State.coreAt_setCoreAt (s : State) (k j : Nat) (x : Core) :
    (s.setCoreAt k x).coreAt j = if j = k then x else s.coreAt j := Tab.get_put ..
@[simp] theorem State.dieAt_setDieAt (s : State) (k j : Nat) (x : Die) :
    (s.setDieAt k x).dieAt j = if j = k then x else s.dieAt j := Tab.get_put ..
@[simp] theorem State.ctxAt_setCtxAt (s : State) (k j : Nat) (x : Ctx) :
    (s.setCtxAt k x).ctxAt j = if j = k then x else s.ctxAt j := Tab.get_put ..
@[simp] theorem State.hostqAt_setHostqAt (s : State) (k j : Nat) (x : HostQ) :
    (s.setHostqAt k x).hostqAt j = if j = k then x else s.hostqAt j := Tab.get_put ..
@[simp] theorem State.warp_setWarp (s : State) (w : Warp) : (s.setWarp w).warp = w := by
  simp [State.warp, State.setWarp]

/-! What an accessor reads after another's update. -/
@[simp] theorem State.wgAt_setWarpAt (s : State) (k : Nat) (w : Warp) (j : Nat) : (s.setWarpAt k w).wgAt j = s.wgAt j := rfl
@[simp] theorem State.gridAt_setWarpAt (s : State) (k : Nat) (w : Warp) (j : Nat) : (s.setWarpAt k w).gridAt j = s.gridAt j := rfl
@[simp] theorem State.coreAt_setWarpAt (s : State) (k : Nat) (w : Warp) (j : Nat) : (s.setWarpAt k w).coreAt j = s.coreAt j := rfl
@[simp] theorem State.dieAt_setWarpAt (s : State) (k : Nat) (w : Warp) (j : Nat) : (s.setWarpAt k w).dieAt j = s.dieAt j := rfl
@[simp] theorem State.ctxAt_setWarpAt (s : State) (k : Nat) (w : Warp) (j : Nat) : (s.setWarpAt k w).ctxAt j = s.ctxAt j := rfl
@[simp] theorem State.hostqAt_setWarpAt (s : State) (k : Nat) (w : Warp) (j : Nat) : (s.setWarpAt k w).hostqAt j = s.hostqAt j := rfl
@[simp] theorem State.readMem_setWarpAt (s : State) (k : Nat) (w : Warp) (j m : Nat) : (s.setWarpAt k w).readMem j m = s.readMem j m := rfl
@[simp] theorem State.padRead_setWarpAt (s : State) (k : Nat) (w : Warp) (j p m : Nat) : (s.setWarpAt k w).padRead j p m = s.padRead j p m := rfl
@[simp] theorem State.wg_setWarpAt (s : State) (k : Nat) (w : Warp)  : (s.setWarpAt k w).wg  = s.wg  := rfl
@[simp] theorem State.width_setWarpAt (s : State) (k : Nat) (w : Warp)  : (s.setWarpAt k w).width  = s.width  := rfl
@[simp] theorem State.wm_setWarpAt (s : State) (k : Nat) (w : Warp)  : (s.setWarpAt k w).wm  = s.wm  := rfl

@[simp] theorem State.warpAt_setWgAt (s : State) (n : Nat) (g : Wg) (j : Nat) : (s.setWgAt n g).warpAt j = s.warpAt j := rfl
@[simp] theorem State.gridAt_setWgAt (s : State) (n : Nat) (g : Wg) (j : Nat) : (s.setWgAt n g).gridAt j = s.gridAt j := rfl
@[simp] theorem State.coreAt_setWgAt (s : State) (n : Nat) (g : Wg) (j : Nat) : (s.setWgAt n g).coreAt j = s.coreAt j := rfl
@[simp] theorem State.dieAt_setWgAt (s : State) (n : Nat) (g : Wg) (j : Nat) : (s.setWgAt n g).dieAt j = s.dieAt j := rfl
@[simp] theorem State.ctxAt_setWgAt (s : State) (n : Nat) (g : Wg) (j : Nat) : (s.setWgAt n g).ctxAt j = s.ctxAt j := rfl
@[simp] theorem State.hostqAt_setWgAt (s : State) (n : Nat) (g : Wg) (j : Nat) : (s.setWgAt n g).hostqAt j = s.hostqAt j := rfl
@[simp] theorem State.readMem_setWgAt (s : State) (n : Nat) (g : Wg) (j m : Nat) : (s.setWgAt n g).readMem j m = s.readMem j m := rfl
@[simp] theorem State.padRead_setWgAt (s : State) (n : Nat) (g : Wg) (j p m : Nat) : (s.setWgAt n g).padRead j p m = s.padRead j p m := rfl
@[simp] theorem State.warp_setWgAt (s : State) (n : Nat) (g : Wg)  : (s.setWgAt n g).warp  = s.warp  := rfl

@[simp] theorem State.warpAt_setGridAt (s : State) (q : Nat) (g : Grid) (j : Nat) : (s.setGridAt q g).warpAt j = s.warpAt j := rfl
@[simp] theorem State.wgAt_setGridAt (s : State) (q : Nat) (g : Grid) (j : Nat) : (s.setGridAt q g).wgAt j = s.wgAt j := rfl
@[simp] theorem State.coreAt_setGridAt (s : State) (q : Nat) (g : Grid) (j : Nat) : (s.setGridAt q g).coreAt j = s.coreAt j := rfl
@[simp] theorem State.dieAt_setGridAt (s : State) (q : Nat) (g : Grid) (j : Nat) : (s.setGridAt q g).dieAt j = s.dieAt j := rfl
@[simp] theorem State.ctxAt_setGridAt (s : State) (q : Nat) (g : Grid) (j : Nat) : (s.setGridAt q g).ctxAt j = s.ctxAt j := rfl
@[simp] theorem State.hostqAt_setGridAt (s : State) (q : Nat) (g : Grid) (j : Nat) : (s.setGridAt q g).hostqAt j = s.hostqAt j := rfl
@[simp] theorem State.readMem_setGridAt (s : State) (q : Nat) (g : Grid) (j m : Nat) : (s.setGridAt q g).readMem j m = s.readMem j m := rfl
@[simp] theorem State.padRead_setGridAt (s : State) (q : Nat) (g : Grid) (j p m : Nat) : (s.setGridAt q g).padRead j p m = s.padRead j p m := rfl
@[simp] theorem State.wg_setGridAt (s : State) (q : Nat) (g : Grid)  : (s.setGridAt q g).wg  = s.wg  := rfl
@[simp] theorem State.warp_setGridAt (s : State) (q : Nat) (g : Grid)  : (s.setGridAt q g).warp  = s.warp  := rfl
@[simp] theorem State.width_setGridAt (s : State) (q : Nat) (g : Grid)  : (s.setGridAt q g).width  = s.width  := rfl
@[simp] theorem State.wm_setGridAt (s : State) (q : Nat) (g : Grid)  : (s.setGridAt q g).wm  = s.wm  := rfl

@[simp] theorem State.warpAt_setCoreAt (s : State) (c : Nat) (x : Core) (j : Nat) : (s.setCoreAt c x).warpAt j = s.warpAt j := rfl
@[simp] theorem State.wgAt_setCoreAt (s : State) (c : Nat) (x : Core) (j : Nat) : (s.setCoreAt c x).wgAt j = s.wgAt j := rfl
@[simp] theorem State.gridAt_setCoreAt (s : State) (c : Nat) (x : Core) (j : Nat) : (s.setCoreAt c x).gridAt j = s.gridAt j := rfl
@[simp] theorem State.dieAt_setCoreAt (s : State) (c : Nat) (x : Core) (j : Nat) : (s.setCoreAt c x).dieAt j = s.dieAt j := rfl
@[simp] theorem State.ctxAt_setCoreAt (s : State) (c : Nat) (x : Core) (j : Nat) : (s.setCoreAt c x).ctxAt j = s.ctxAt j := rfl
@[simp] theorem State.hostqAt_setCoreAt (s : State) (c : Nat) (x : Core) (j : Nat) : (s.setCoreAt c x).hostqAt j = s.hostqAt j := rfl
@[simp] theorem State.readMem_setCoreAt (s : State) (c : Nat) (x : Core) (j m : Nat) : (s.setCoreAt c x).readMem j m = s.readMem j m := rfl
@[simp] theorem State.wg_setCoreAt (s : State) (c : Nat) (x : Core)  : (s.setCoreAt c x).wg  = s.wg  := rfl
@[simp] theorem State.warp_setCoreAt (s : State) (c : Nat) (x : Core)  : (s.setCoreAt c x).warp  = s.warp  := rfl
@[simp] theorem State.width_setCoreAt (s : State) (c : Nat) (x : Core)  : (s.setCoreAt c x).width  = s.width  := rfl
@[simp] theorem State.wm_setCoreAt (s : State) (c : Nat) (x : Core)  : (s.setCoreAt c x).wm  = s.wm  := rfl

@[simp] theorem State.warpAt_setDieAt (s : State) (d : Nat) (x : Die) (j : Nat) : (s.setDieAt d x).warpAt j = s.warpAt j := rfl
@[simp] theorem State.wgAt_setDieAt (s : State) (d : Nat) (x : Die) (j : Nat) : (s.setDieAt d x).wgAt j = s.wgAt j := rfl
@[simp] theorem State.gridAt_setDieAt (s : State) (d : Nat) (x : Die) (j : Nat) : (s.setDieAt d x).gridAt j = s.gridAt j := rfl
@[simp] theorem State.coreAt_setDieAt (s : State) (d : Nat) (x : Die) (j : Nat) : (s.setDieAt d x).coreAt j = s.coreAt j := rfl
@[simp] theorem State.ctxAt_setDieAt (s : State) (d : Nat) (x : Die) (j : Nat) : (s.setDieAt d x).ctxAt j = s.ctxAt j := rfl
@[simp] theorem State.hostqAt_setDieAt (s : State) (d : Nat) (x : Die) (j : Nat) : (s.setDieAt d x).hostqAt j = s.hostqAt j := rfl
@[simp] theorem State.readMem_setDieAt (s : State) (d : Nat) (x : Die) (j m : Nat) : (s.setDieAt d x).readMem j m = s.readMem j m := rfl
@[simp] theorem State.padRead_setDieAt (s : State) (d : Nat) (x : Die) (j p m : Nat) : (s.setDieAt d x).padRead j p m = s.padRead j p m := rfl
@[simp] theorem State.wg_setDieAt (s : State) (d : Nat) (x : Die)  : (s.setDieAt d x).wg  = s.wg  := rfl
@[simp] theorem State.warp_setDieAt (s : State) (d : Nat) (x : Die)  : (s.setDieAt d x).warp  = s.warp  := rfl
@[simp] theorem State.width_setDieAt (s : State) (d : Nat) (x : Die)  : (s.setDieAt d x).width  = s.width  := rfl
@[simp] theorem State.wm_setDieAt (s : State) (d : Nat) (x : Die)  : (s.setDieAt d x).wm  = s.wm  := rfl

@[simp] theorem State.warpAt_setCtxAt (s : State) (c : Nat) (x : Ctx) (j : Nat) : (s.setCtxAt c x).warpAt j = s.warpAt j := rfl
@[simp] theorem State.wgAt_setCtxAt (s : State) (c : Nat) (x : Ctx) (j : Nat) : (s.setCtxAt c x).wgAt j = s.wgAt j := rfl
@[simp] theorem State.gridAt_setCtxAt (s : State) (c : Nat) (x : Ctx) (j : Nat) : (s.setCtxAt c x).gridAt j = s.gridAt j := rfl
@[simp] theorem State.coreAt_setCtxAt (s : State) (c : Nat) (x : Ctx) (j : Nat) : (s.setCtxAt c x).coreAt j = s.coreAt j := rfl
@[simp] theorem State.dieAt_setCtxAt (s : State) (c : Nat) (x : Ctx) (j : Nat) : (s.setCtxAt c x).dieAt j = s.dieAt j := rfl
@[simp] theorem State.hostqAt_setCtxAt (s : State) (c : Nat) (x : Ctx) (j : Nat) : (s.setCtxAt c x).hostqAt j = s.hostqAt j := rfl
@[simp] theorem State.readMem_setCtxAt (s : State) (c : Nat) (x : Ctx) (j m : Nat) : (s.setCtxAt c x).readMem j m = s.readMem j m := rfl
@[simp] theorem State.padRead_setCtxAt (s : State) (c : Nat) (x : Ctx) (j p m : Nat) : (s.setCtxAt c x).padRead j p m = s.padRead j p m := rfl
@[simp] theorem State.wg_setCtxAt (s : State) (c : Nat) (x : Ctx)  : (s.setCtxAt c x).wg  = s.wg  := rfl
@[simp] theorem State.warp_setCtxAt (s : State) (c : Nat) (x : Ctx)  : (s.setCtxAt c x).warp  = s.warp  := rfl
@[simp] theorem State.width_setCtxAt (s : State) (c : Nat) (x : Ctx)  : (s.setCtxAt c x).width  = s.width  := rfl
@[simp] theorem State.wm_setCtxAt (s : State) (c : Nat) (x : Ctx)  : (s.setCtxAt c x).wm  = s.wm  := rfl

@[simp] theorem State.warpAt_setHostqAt (s : State) (q : Nat) (x : HostQ) (j : Nat) : (s.setHostqAt q x).warpAt j = s.warpAt j := rfl
@[simp] theorem State.wgAt_setHostqAt (s : State) (q : Nat) (x : HostQ) (j : Nat) : (s.setHostqAt q x).wgAt j = s.wgAt j := rfl
@[simp] theorem State.gridAt_setHostqAt (s : State) (q : Nat) (x : HostQ) (j : Nat) : (s.setHostqAt q x).gridAt j = s.gridAt j := rfl
@[simp] theorem State.coreAt_setHostqAt (s : State) (q : Nat) (x : HostQ) (j : Nat) : (s.setHostqAt q x).coreAt j = s.coreAt j := rfl
@[simp] theorem State.dieAt_setHostqAt (s : State) (q : Nat) (x : HostQ) (j : Nat) : (s.setHostqAt q x).dieAt j = s.dieAt j := rfl
@[simp] theorem State.ctxAt_setHostqAt (s : State) (q : Nat) (x : HostQ) (j : Nat) : (s.setHostqAt q x).ctxAt j = s.ctxAt j := rfl
@[simp] theorem State.readMem_setHostqAt (s : State) (q : Nat) (x : HostQ) (j m : Nat) : (s.setHostqAt q x).readMem j m = s.readMem j m := rfl
@[simp] theorem State.padRead_setHostqAt (s : State) (q : Nat) (x : HostQ) (j p m : Nat) : (s.setHostqAt q x).padRead j p m = s.padRead j p m := rfl
@[simp] theorem State.wg_setHostqAt (s : State) (q : Nat) (x : HostQ)  : (s.setHostqAt q x).wg  = s.wg  := rfl
@[simp] theorem State.warp_setHostqAt (s : State) (q : Nat) (x : HostQ)  : (s.setHostqAt q x).warp  = s.warp  := rfl
@[simp] theorem State.width_setHostqAt (s : State) (q : Nat) (x : HostQ)  : (s.setHostqAt q x).width  = s.width  := rfl
@[simp] theorem State.wm_setHostqAt (s : State) (q : Nat) (x : HostQ)  : (s.setHostqAt q x).wm  = s.wm  := rfl

@[simp] theorem State.wgAt_setWarp (s : State) (w : Warp) (j : Nat) : (s.setWarp w).wgAt j = s.wgAt j := rfl
@[simp] theorem State.gridAt_setWarp (s : State) (w : Warp) (j : Nat) : (s.setWarp w).gridAt j = s.gridAt j := rfl
@[simp] theorem State.coreAt_setWarp (s : State) (w : Warp) (j : Nat) : (s.setWarp w).coreAt j = s.coreAt j := rfl
@[simp] theorem State.dieAt_setWarp (s : State) (w : Warp) (j : Nat) : (s.setWarp w).dieAt j = s.dieAt j := rfl
@[simp] theorem State.ctxAt_setWarp (s : State) (w : Warp) (j : Nat) : (s.setWarp w).ctxAt j = s.ctxAt j := rfl
@[simp] theorem State.hostqAt_setWarp (s : State) (w : Warp) (j : Nat) : (s.setWarp w).hostqAt j = s.hostqAt j := rfl
@[simp] theorem State.readMem_setWarp (s : State) (w : Warp) (j m : Nat) : (s.setWarp w).readMem j m = s.readMem j m := rfl
@[simp] theorem State.padRead_setWarp (s : State) (w : Warp) (j p m : Nat) : (s.setWarp w).padRead j p m = s.padRead j p m := rfl
@[simp] theorem State.wg_setWarp (s : State) (w : Warp)  : (s.setWarp w).wg  = s.wg  := rfl
@[simp] theorem State.width_setWarp (s : State) (w : Warp)  : (s.setWarp w).width  = s.width  := rfl
@[simp] theorem State.wm_setWarp (s : State) (w : Warp)  : (s.setWarp w).wm  = s.wm  := rfl

@[simp] theorem State.warpAt_writeMem (s : State) (a : Nat) (b : List Byte) (j : Nat) : (s.writeMem a b).warpAt j = s.warpAt j := rfl
@[simp] theorem State.wgAt_writeMem (s : State) (a : Nat) (b : List Byte) (j : Nat) : (s.writeMem a b).wgAt j = s.wgAt j := rfl
@[simp] theorem State.gridAt_writeMem (s : State) (a : Nat) (b : List Byte) (j : Nat) : (s.writeMem a b).gridAt j = s.gridAt j := rfl
@[simp] theorem State.coreAt_writeMem (s : State) (a : Nat) (b : List Byte) (j : Nat) : (s.writeMem a b).coreAt j = s.coreAt j := rfl
@[simp] theorem State.dieAt_writeMem (s : State) (a : Nat) (b : List Byte) (j : Nat) : (s.writeMem a b).dieAt j = s.dieAt j := rfl
@[simp] theorem State.ctxAt_writeMem (s : State) (a : Nat) (b : List Byte) (j : Nat) : (s.writeMem a b).ctxAt j = s.ctxAt j := rfl
@[simp] theorem State.hostqAt_writeMem (s : State) (a : Nat) (b : List Byte) (j : Nat) : (s.writeMem a b).hostqAt j = s.hostqAt j := rfl
@[simp] theorem State.padRead_writeMem (s : State) (a : Nat) (b : List Byte) (j p m : Nat) : (s.writeMem a b).padRead j p m = s.padRead j p m := rfl
@[simp] theorem State.wg_writeMem (s : State) (a : Nat) (b : List Byte)  : (s.writeMem a b).wg  = s.wg  := rfl
@[simp] theorem State.warp_writeMem (s : State) (a : Nat) (b : List Byte)  : (s.writeMem a b).warp  = s.warp  := rfl
@[simp] theorem State.width_writeMem (s : State) (a : Nat) (b : List Byte)  : (s.writeMem a b).width  = s.width  := rfl
@[simp] theorem State.wm_writeMem (s : State) (a : Nat) (b : List Byte)  : (s.writeMem a b).wm  = s.wm  := rfl


/-! A warp whose dispatched instructions are squashed (R157). -/

@[simp] theorem Warp.squash_stint (w : Warp) : w.squash.stint = none := rfl
@[simp] theorem Warp.squash_stall (w : Warp) : w.squash.stall = none := rfl
@[simp] theorem Warp.squash_fetched (w : Warp) : w.squash.fetched = [] := rfl
@[simp] theorem Warp.squash_rob (w : Warp) : w.squash.rob = [] := rfl
@[simp] theorem Warp.squash_held (w : Warp) : w.squash.held = none := rfl
@[simp] theorem Warp.squash_run (w : Warp) : w.squash.run = w.run := rfl
@[simp] theorem Warp.squash_trapQ (w : Warp) : w.squash.trapQ = w.trapQ := rfl
@[simp] theorem Warp.squash_notice (w : Warp) : w.squash.notice = w.notice := rfl
@[simp] theorem Warp.squash_handler (w : Warp) : w.squash.handler = w.handler := rfl
@[simp] theorem Warp.squash_pc (w : Warp) : w.squash.pc = w.pc := rfl
@[simp] theorem Warp.squash_exec (w : Warp) : w.squash.exec = w.exec := rfl
@[simp] theorem Warp.squash_tvb (w : Warp) : w.squash.tvb = w.tvb := rfl
@[simp] theorem Warp.squash_tpc (w : Warp) : w.squash.tpc = w.tpc := rfl
@[simp] theorem Warp.squash_texec (w : Warp) : w.squash.texec = w.texec := rfl
@[simp] theorem Warp.squash_s (w : Warp) : w.squash.s = w.s := rfl
@[simp] theorem Warp.squash_v (w : Warp) : w.squash.v = w.v := rfl
@[simp] theorem Warp.squash_hs (w : Warp) : w.squash.hs = w.hs := rfl
@[simp] theorem Warp.squash_hv (w : Warp) : w.squash.hv = w.hv := rfl

end Sys2Proof.Machine
end

