-- ==== Sys2Proof/Laws/Memory.lean ====
section
/-! SUPPORT. Memory and scratchpads: every operation that writes keeps the canonical form, a read after a write gives the
value written, and a write leaves every other byte alone. -/

namespace Sys2Proof.Machine

/-! The canonical form. -/

theorem reset_memWf : State.reset.memWf := rfl
theorem reset_padWf : State.reset.padWf := fun _ => rfl

theorem memWf_of_mem {s t : State} (e : t.mem = s.mem) (h : s.memWf) : t.memWf := by
  unfold State.memWf; rw [e]; exact h
theorem writeMem_memWf (s : State) (a : Nat) (b : List Byte) (h : s.memWf) : (s.writeMem a b).memWf :=
  Tab.wf_putN 0 a b s.mem h
/-- A fold of steps that each keep a property keeps it. -/
theorem foldl_keeps {α : Type} (P : State → Prop) (f : State → α → State) (hf : ∀ s x, P s → P (f s x)) (l : List α) (s : State)
    (h : P s) : P (l.foldl f s) := by
  induction l generalizing s with
  | nil => exact h
  | cons x r ih => exact ih _ (hf s x h)
theorem storeAll_memWf (s : State) (l : List (Nat × List Byte)) (h : s.memWf) : (s.storeAll l).memWf := by
  have := foldl_keeps State.memWf (fun s p => s.writeMem p.1 p.2) (fun s p hs => writeMem_memWf s p.1 p.2 hs) l s h
  unfold State.storeAll
  split
  · exact this
  · exact this
theorem atomicAt_memWf (s : State) (key : Nat) (op : AOp) (w64 : Bool) (x cmp : DWord) (h : s.memWf) :
    (s.atomicAt key op w64 x cmp).2.memWf := writeMem_memWf _ _ _ h
theorem signalWord_memWf (s : State) (key : Nat) (f : Nat → Nat) (h : s.memWf) : (s.signalWord key f).memWf := by
  unfold State.signalWord
  split
  · exact h
  · exact writeMem_memWf _ _ _ h
theorem signal_memWf (s : State) (v : Nat) (h : s.memWf) : (s.signal v).memWf := by
  unfold State.signal; split <;> exact h
theorem errRecord_memWf (s : State) (c : Nat) (r : ErrRec) (h : s.memWf) : (s.errRecord c r).memWf := by
  simp only [State.errRecord]
  split
  · exact h
  · exact signal_memWf _ _ (memWf_of_mem (State.setCtxAt_mem ..) (writeMem_memWf s _ _ h))
theorem applyRed_memWf (s : State) (r : Red) (h : s.memWf) : (s.applyRed r).memWf := by
  unfold State.applyRed
  split
  · exact errRecord_memWf _ _ _ h
  · exact foldl_keeps State.memWf _ (fun s x hs => atomicAt_memWf s _ _ _ _ _ hs) _ _ h
theorem performReds_memWf (s : State) (now later : List Red) (h : s.memWf) : (s.performReds now later).memWf := by
  unfold State.performReds
  split
  · exact h
  · exact foldl_keeps State.memWf _ (fun s r hs => applyRed_memWf s r hs) _ _ h
theorem drainReds_memWf (s : State) (p : Red → Bool) (h : s.memWf) : (s.drainReds p).memWf := performReds_memWf _ _ _ h
theorem flushOver_memWf (s : State) (k : Nat) (l : List (Nat × Nat)) (h : s.memWf) : (s.flushOver k l).memWf :=
  performReds_memWf _ _ _ h
theorem capture_memWf (s : State) (c n : Nat) (h : s.memWf) : (s.capture c n).memWf := by
  simp only [State.capture]
  split
  · exact h
  · exact memWf_of_mem (State.setCtxAt_mem ..) (memWf_of_mem rfl (writeMem_memWf s _ _ h))
theorem status_memWf (s : State) (q code arg : Nat) (h : s.memWf) : (s.status q code arg).memWf := by
  unfold State.status
  simp only
  split
  · exact signal_memWf _ _ (writeMem_memWf s _ _ h)
  · exact writeMem_memWf s _ _ h

theorem padWrite_padWf (s : State) (core p : Nat) (b : List Byte) (h : s.padWf) : (s.padWrite core p b).padWf := by
  intro c
  simp only [State.padWrite, State.coreAt_setCoreAt]
  split
  · exact Tab.wf_putN _ _ _ _ (h core)
  · exact h c
theorem padPoison_padWf (s : State) (core w : Nat) (h : s.padWf) : (s.padPoison core w).padWf := by
  intro c
  simp only [State.padPoison, State.coreAt_setCoreAt]
  split
  · exact h core
  · exact h c
theorem clearPad_padWf (s : State) (core base size : Nat) (h : s.padWf) : (s.clearPad core base size).padWf := by
  intro c
  simp only [State.clearPad, State.coreAt_setCoreAt]
  split
  · exact Tab.wf_delRange _ _ _ _ (h core)
  · exact h c

/-! Reads after writes. -/

/-- Each byte after a write: the one written where the write lies, else the one before. -/
theorem readMem_writeMem (s : State) (a : Nat) (b : List Byte) (j : Nat) :
    (s.writeMem a b).readMem j 1 = if a ≤ j ∧ j < a + b.length then [b.getD (j - a) 0] else s.readMem j 1 := by
  unfold State.readMem State.writeMem
  simp only [Tab.getN, Tab.get_putN]
  split
  · rename_i h
    rw [List.getD_eq_getElem?_getD, List.getElem?_eq_getElem (by omega)]; rfl
  · rfl
/-- A write leaves every byte outside it alone. -/
theorem readMem_writeMem_out (s : State) (a : Nat) (b : List Byte) (j n : Nat) (h : j + n ≤ a ∨ a + b.length ≤ j) :
    (s.writeMem a b).readMem j n = s.readMem j n := by
  unfold State.readMem State.writeMem
  refine Tab.getN_congr _ _ _ _ _ fun k h1 h2 => ?_
  rw [Tab.get_putN]
  split
  · omega
  · rfl
/-- The same of a scratchpad. -/
theorem padRead_padWrite (s : State) (c p : Nat) (b : List Byte) (d j : Nat) :
    (s.padWrite c p b).padRead d j 1 =
      if d = c ∧ p ≤ j ∧ j < p + b.length then [b.getD (j - p) 0] else s.padRead d j 1 := by
  unfold State.padRead State.padWrite
  by_cases hd : d = c
  · subst hd
    simp only [State.coreAt_setCoreAt, if_true, true_and, Tab.getN, Tab.get_putN]
    split
    · rename_i h
      rw [List.getD_eq_getElem?_getD, List.getElem?_eq_getElem (by omega)]; rfl
    · rfl
  · simp [hd]

/-! Translation. -/

/-- The word that a signal reaches depends, of memory, on the entries that its walk reads alone. -/
theorem State.signalTo_congr {s : State} {w : Tab Wg} {g : Tab Grid} {m : Tab Byte} (ctx : Nat) (va : DWord)
    (h : let r := (s.ctxAt ctx).root
      let t2 := tableOf (s.entry r (bits va.toNat 54 43))
      let t3 := tableOf (s.entry t2 (bits va.toNat 42 31))
      ∀ a ∈ [r + 8 * bits va.toNat 54 43, t2 + 8 * bits va.toNat 42 31, t3 + 8 * bits va.toNat 30 19,
        t3 + 8 * (bits va.toNat 30 25 * 64)], ∀ j, a ≤ j → j < a + 8 → Tab.get 0 j m = Tab.get 0 j s.mem) :
    ({ s with wgs := w, grids := g, mem := m } : State).signalTo ctx va = s.signalTo ctx va := by
  have he : ∀ t i, (∀ j, t + 8 * i ≤ j → j < t + 8 * i + 8 → Tab.get 0 j m = Tab.get 0 j s.mem) →
      ({ s with wgs := w, grids := g, mem := m } : State).entry t i = s.entry t i :=
    fun t i hj => congrArg leNat (Tab.getN_congr _ _ _ _ _ hj)
  simp only [List.mem_cons, List.not_mem_nil, or_false, forall_eq_or_imp, forall_eq] at h
  have hw : ({ s with wgs := w, grids := g, mem := m } : State).walk (s.ctxAt ctx) va.toNat = s.walk (s.ctxAt ctx) va.toNat := by
    unfold State.walk
    rw [he _ _ h.1]
    simp only
    rw [he _ _ h.2.1]
    unfold State.walk3
    rw [he _ _ h.2.2.1, he _ _ h.2.2.2]
    rfl
  have hl : ({ s with wgs := w, grids := g, mem := m } : State).lookup noCore ctx va = s.lookup noCore ctx va := by
    unfold State.lookup
    exact congrArg (fun x => match s.tlbHit noCore ctx va.toNat with | some l => Walk.leaf l | none => x) hw
  unfold State.signalTo State.xlate
  rw [hl]

end Sys2Proof.Machine
end

