-- ==== Sys2Proof/Laws/Ops.lean ====
section
/-! SUPPORT. The shared operations, each with one lemma that says what it does: registers, masks, the end of an
instruction and dispatch ahead of it. -/

namespace Sys2Proof.Machine

/-! Registers (R6, R160, R294). -/

theorem readS_writeS (w : Warp) (d r : Reg) (v : DWord) :
    readS (writeS w d v) r = if r = d then (if d = 0 ∧ w.handler = false then 0 else v) else readS w r := by
  have hn : r.toNat = d.toNat ↔ r = d := BitVec.toNat_inj
  cases h : w.handler
  · by_cases hd : d = 0
    · have e : writeS w d v = w := by unfold writeS; rw [h, if_neg (by simp), if_pos hd]
      rw [e]
      by_cases hr : r = d
      · rw [if_pos hr, if_pos ⟨hd, rfl⟩]; unfold readS; rw [h, if_neg (by simp), if_pos (hr.trans hd)]
      · rw [if_neg hr]
    · have e : writeS w d v = { w with s := Tab.put 0 d.toNat v w.s } := by
        unfold writeS; rw [h, if_neg (by simp), if_neg hd]
      rw [e]
      by_cases hr : r = d
      · rw [if_pos hr, if_neg (fun c => hd c.1)]; unfold readS
        rw [if_neg (by simp [h]), if_neg (hr ▸ hd), Tab.get_put, if_pos (hn.2 hr)]
      · rw [if_neg hr]; unfold readS
        simp only [Tab.get_put, hn, if_neg hr]
  · have e : writeS w d v = { w with hs := Tab.put 0 d.toNat v w.hs } := by unfold writeS; rw [h, if_pos rfl]
    rw [e]
    unfold readS
    simp only [h, if_true, Tab.get_put, hn]
    by_cases hr : r = d <;> simp [hr]
theorem readV_writeV (w : Warp) (d r : Reg) (v : VReg) : readV (writeV w d v) r = if r = d then v else readV w r := by
  have hn : r.toNat = d.toNat ↔ r = d := BitVec.toNat_inj
  unfold readV writeV
  by_cases h : w.handler <;> simp [h, hn]
@[simp] theorem readV_writeS (w : Warp) (d r : Reg) (v : DWord) : readV (writeS w d v) r = readV w r := by
  unfold readV writeS; split <;> [skip; split] <;> simp_all
@[simp] theorem readS_writeV (w : Warp) (d r : Reg) (v : VReg) : readS (writeV w d v) r = readS w r := by
  unfold readS writeV; split <;> simp_all
/-- Writing a scalar register changes that register alone. -/
theorem writeS_only (w : Warp) (d : Reg) (v : DWord) : Warp.onlyScalar d w (writeS w d v) := by
  refine ⟨?_, fun r hr => by rw [readS_writeS, if_neg hr], ?_⟩
  · unfold writeS; split <;> [rfl; (split <;> rfl)]
  · unfold writeS; split <;> [rfl; (split <;> simp_all)]
theorem writeS_gives (w : Warp) (d : Reg) (v : DWord) : (writeS w d v).gives d v := by
  have hh : (writeS w d v).handler = w.handler := by unfold writeS; split <;> [rfl; (split <;> rfl)]
  unfold Warp.gives; rw [readS_writeS, if_pos rfl, hh]
/-- Writing a vector register changes that register alone. -/
theorem writeV_only (w : Warp) (d : Reg) (v : VReg) : Warp.onlyVector [d] w (writeV w d v) := by
  refine ⟨?_, fun r hr => by rw [readV_writeV, if_neg (by simpa using hr)], ?_⟩
  all_goals unfold writeV; split <;> simp_all
@[simp] theorem writeS_fields (w : Warp) (d : Reg) (v : DWord) :
    (writeS w d v).pc = w.pc ∧ (writeS w d v).stint = w.stint ∧ (writeS w d v).notice = w.notice
      ∧ (writeS w d v).exec = w.exec ∧ (writeS w d v).handler = w.handler
      ∧ (writeS w d v).rob = w.rob ∧ (writeS w d v).trapQ = w.trapQ ∧ (writeS w d v).run = w.run := by
  unfold writeS; split <;> [skip; split] <;> simp_all
@[simp] theorem writeV_fields (w : Warp) (d : Reg) (v : VReg) :
    (writeV w d v).pc = w.pc ∧ (writeV w d v).stint = w.stint ∧ (writeV w d v).notice = w.notice
      ∧ (writeV w d v).exec = w.exec ∧ (writeV w d v).handler = w.handler
      ∧ (writeV w d v).rob = w.rob ∧ (writeV w d v).trapQ = w.trapQ ∧ (writeV w d v).run = w.run := by
  unfold writeV; split <;> simp_all

/-! Writing under exec (R162). -/

/-- A register written under exec holds `f` in the active lanes and its old value elsewhere, where `full` agrees with `f`
lane by lane. -/
theorem vputReg_lane (width : Nat) (exec : DWord) (u : Bool) (full : VReg) (f : Nat → Word) (old : VReg)
    (hf : u = false → ∀ l, l < width → full.lane l = f l) (l : Nat) (hl : l < width) (h64 : l < 64) :
    (vputReg width exec u full f old).lane l = if exec.getLsbD l then f (bodyLane u l) else old.lane l := by
  unfold vputReg
  by_cases he : exec = 0
  · simp [he]
  · rw [if_neg he]
    by_cases hm : exec = wmask width
    · have hb : exec.getLsbD l = true := by
        rw [hm, wmask, BitVec.getLsbD_ofNat, Nat.testBit_two_pow_sub_one]; simp [hl, h64]
      rw [if_neg (by simpa using hm)]
      cases u
      · simp [hb, bodyLane, hf rfl l hl]
      · simp [hb, bodyLane, VReg.lane]
    · rw [if_pos hm]
      simp only [VReg.lane, bodyLane, List.getD_eq_getElem?_getD, List.getElem?_map]
      rw [List.getElem?_range hl]
      simp
theorem genOf_lane (width : Nat) (f : Nat → Word) (l : Nat) (hl : l < width) : (genOf width f).lane l = f l := by
  simp [genOf, VReg.lane, List.getD_eq_getElem?_getD, List.getElem?_range hl]
theorem vput_gives (w : Warp) (width : Nat) (u : Bool) (d : Reg) (full : VReg) (f : Nat → Word)
    (hf : u = false → ∀ l, l < width → full.lane l = f l) :
    w.givesLanes (w.vput width u d full f) width u d f := by
  intro l hl h64
  simp only [Warp.vput, readV_writeV, if_pos, Warp.active]
  exact vputReg_lane _ _ _ _ _ _ hf l hl h64
theorem vputGen_gives (w : Warp) (width : Nat) (u : Bool) (d : Reg) (f : Nat → Word) :
    w.givesLanes (w.vputGen width u d f) width u d f :=
  vput_gives _ _ _ _ _ _ fun _ l hl => genOf_lane width f l hl

/-! The end of an instruction. -/

theorem retired_eq (o : Opd) (w w' : Warp) (e : Bool) (h1 : w'.stint = w.stint) (h2 : w'.notice = w.notice)
    (h3 : w'.rob = w.rob) : ({ w' with pc := w.pc + BitVec.ofNat 64 o.len } : Warp).retired e = completed o w w' e := by
  simp only [Warp.retired, completed, nextStint, h1, h2, h3]
/-- An instruction that only changes registers completes. -/
theorem done_completes (o : Opd) (w' : Warp) (s : State) (hp : w'.pc = s.warp.pc) (h1 : w'.stint = s.warp.stint)
    (h2 : w'.notice = s.warp.notice) (h3 : w'.rob = s.warp.rob) : Completes o w' s (s.done o w') := by
  refine ⟨?_, ⟨rfl, fun k hk => ?_⟩, fun a n => rfl, fun c p n => rfl⟩
  · simp only [State.done, State.retire, State.goto, State.nextPc, State.warp_setWarp]
    rw [hp]
    exact retired_eq o s.warp w' o.s h1 h2 h3
  · have hc : (s.setWarp w').cur = s.cur := rfl
    simp [State.done, State.retire, State.goto, State.setWarp, hk]
theorem retire_completes (o : Opd) (s : State) : Completes o s.warp s (s.retire o) := by
  refine ⟨?_, ⟨rfl, fun k hk => ?_⟩, fun a n => rfl, fun c p n => rfl⟩
  · simp only [State.retire, State.goto, State.nextPc, State.warp_setWarp]
    exact retired_eq o s.warp s.warp o.s rfl rfl rfl
  · simp [State.retire, State.goto, State.setWarp, hk]

/-- What an instruction under exec does: nothing with exec empty, the exception 0x04 for a source under U that is not UNI,
else its body (R168, R163). -/
theorem vecGate_idle (o : Opd) (l : List USrc) (k : State → State) (s : State) (h : s.warp.exec = 0) :
    vecGate o l k s = s.retire o := by simp [vecGate, h]
theorem vecGate_body (o : Opd) (l : List USrc) (k : State → State) (s : State) (h : s.warp.exec ≠ 0)
    (hu : o.u = true → firstNonUni s.warp l = none) : vecGate o l k s = k s := by
  unfold vecGate
  rw [if_neg h]
  cases ho : o.u
  · rfl
  · simp [hu ho]
theorem vecGate_trap (o : Opd) (l : List USrc) (k : State → State) (s : State) (n : Nat) (h : s.warp.exec ≠ 0)
    (hu : o.u = true) (hn : firstNonUni s.warp l = some n) :
    vecGate o l k s = s.raise 0x04 s.warp.exec (BitVec.ofNat 64 n) := by
  unfold vecGate
  rw [if_neg h, hu]
  simp only [if_true, hn]
  rfl

/-! Lane masks. -/

theorem maskOf_getLsbD (width : Nat) (p : Nat → Bool) (l : Nat) (h : l < 64) :
    (maskOf width p).getLsbD l = (decide (l < width) && p l) := by
  have key : ∀ n, (List.range n).foldl (fun acc l => if p l then acc + 2 ^ l else acc) 0 < 2 ^ n
      ∧ ∀ i, Nat.testBit ((List.range n).foldl (fun acc l => if p l then acc + 2 ^ l else acc) 0) i = (decide (i < n) && p i) := by
    intro n
    induction n with
    | zero => simp
    | succ n ih =>
      obtain ⟨hlt, hb⟩ := ih
      rw [List.range_succ, List.foldl_append]
      simp only [List.foldl_cons, List.foldl_nil]
      cases hp : p n
      · refine ⟨by simp only [Bool.false_eq_true, if_false]; calc _ < 2 ^ n := hlt
                                                              _ ≤ 2 ^ (n + 1) := Nat.pow_le_pow_right (by omega) (by omega), fun i => ?_⟩
        simp only [Bool.false_eq_true, if_false, hb]
        by_cases hi : i = n
        · subst hi; simp [hp]
        · have : (i < n) ↔ (i < n + 1) := by omega
          simp [this]
      · refine ⟨by simp only [if_true]; rw [Nat.pow_succ]; omega, fun i => ?_⟩
        simp only [if_true]
        rw [Nat.add_comm]
        rcases Nat.lt_trichotomy i n with hi | hi | hi
        · rw [Nat.testBit_two_pow_add_gt hi, hb]; simp [hi, Nat.lt_succ_of_lt hi]
        · subst hi; rw [Nat.testBit_two_pow_add_eq, hb]; simp [hp]
        · rw [Nat.testBit_lt_two_pow]
          · simp; omega
          · calc 2 ^ n + _ < 2 ^ (n + 1) := by rw [Nat.pow_succ]; omega
              _ ≤ 2 ^ i := Nat.pow_le_pow_right (by omega) hi
  simp only [maskOf, BitVec.getLsbD_ofNat, (key width).2, h, decide_true, Bool.true_and]

/-! Dispatch ahead of retirement (R157, R246, R247, R289). -/

theorem atBoundary_iff (w : Warp) : w.atBoundary = true ↔ w.atStintStart := by
  unfold Warp.atBoundary Warp.atStintStart
  cases w.rob with
  | nil => cases w.stint <;> simp
  | cons e l => rfl
theorem spent_iff (w : Warp) : w.spent = true ↔ w.stint = none ∧ w.rob = [] := by simp [Warp.spent]
/-- What a step does after an instruction that it tried, whether that went on or waits. -/
theorem inFlight_eq (t : State) (k : Nat) (i : Instr) (ws : List Word) : t.inFlight k i ws = t.tried k i ws := by
  simp only [State.inFlight, State.tried, Warp.dispatch, nextStint]
  by_cases hr : (t.warpAt k).rob = []
  · cases hs : (t.warpAt k).stint with
    | none => simp
    | some n => rcases hw : (t.warpAt k).stall with _ | (_ | _ | _ | _ | _ | _ | _ | _) <;> simp [hr, Wait.inFlight]
  · rw [if_neg fun c => hr c.2.1]
    split <;> simp [hr]
/-- An ACCR's operation changes the warp that waits for it, if one still does, and nothing else (R210). -/
theorem giveAccr_eq (m : MatOp) (got : List Word) (s : State) :
    (s.warpAt (32 * m.wg + m.warp)).stall ≠ some (.accr m.id none) ∧ s.giveAccr m got = s
      ∨ (s.warpAt (32 * m.wg + m.warp)).stall = some (.accr m.id none) ∧ s.giveAccr m got =
          s.setWarpAt (32 * m.wg + m.warp) { s.warpAt (32 * m.wg + m.warp) with stall := some (.accr m.id (some got)) } := by
  unfold State.giveAccr
  by_cases h : (s.warpAt (32 * m.wg + m.warp)).stall = some (.accr m.id none) <;> simp [h]
/-- A grid's owed counter is decremented once its word's walk meets no migration; else nothing changes (R270, R369). -/
theorem payCounter_cases (n : Nat) (s : State) :
    let g := s.wgAt n
    s.payCounter n = s ∨ (s.gridAt g.seq).owes = true ∧ s.signalWaits g.ctx g.fp.counter = false ∧ s.payCounter n =
      (s.setGridAt g.seq { s.gridAt g.seq with owes := false }).signalUpdate g 0xFFFFFFFF g.fp.counter decWord := by
  simp only [State.payCounter]
  split
  · exact .inl rfl
  · rename_i h
    simp only [Bool.or_eq_true, Bool.not_eq_true', not_or, Bool.not_eq_false, Bool.not_eq_true] at h
    exact .inr ⟨h.1, h.2, rfl⟩
/-- A set without poison of its own is poisoned by nothing but a line of its header (R302). -/
theorem poisonedSet_of_lines (s : State) (ctx i : Nat) (h : s.linePoison = []) :
    s.poisonedSet ctx i = ((s.ctxAt ctx).set i).poison := by simp [State.poisonedSet, State.poisonedHeader, h]
/-- A warp that holds no translation accesses its own as any other agent of its core and context does (R38, R43). -/
theorem xlateW_eq (s : State) (va : DWord) (n : Nat) (k : Acc) (h : s.warp.held = none) :
    s.xlateW va n k = s.xlate s.wg.core s.wg.ctx va n k := by
  simp [State.xlateW, State.xlate, State.lookupW, h]
/-- A block ends either with the warp waiting or, for an entry in its queue, with the warp at its instruction (R259, R291). -/
theorem block_eq (r : Run) (len : Nat) (s : State) : s.block r len =
    s.setWarp (if r.abandons s.wg.full then s.warp.waitsAt r len s.iw else s.warp.blockedAt r len s.iw) := by
  unfold State.block Warp.waitsAt
  cases h : r.abandons s.wg.full <;> cases hh : s.warp.handler <;> cases hq : s.warp.trapQ <;>
    simp [Warp.squash, Warp.abandon, Warp.blockedAt, hh, hq]
/-- Dispatching changes the reorder buffer and the stint's count alone. -/
theorem dispatch_fields (w : Warp) (n : Nat) (i : Instr) (ws : List Word) :
    w.dispatch n i ws = { w with rob := (w.dispatch n i ws).rob, stint := (w.dispatch n i ws).stint }
      ∧ (w.dispatch n i ws).rob.length = w.rob.length + 1 := ⟨rfl, by simp [Warp.dispatch]⟩

end Sys2Proof.Machine
end

