-- ==== Sys2Proof/Tests/Slice0.lean ====
section
/-! SUPPORT. The model's own tests: words of every family decoded, ill-formed terms refused, single operations against the
spec's worked values, and for each statement with hypotheses a state and operands that meet them. -/

namespace Sys2Proof.Tests

set_option Elab.async false

open Sys2Proof.Machine

/-! A small state: context 0 with one readable, writable and executable page at 0x400000, and one 64-lane warp of which two
lanes are active. -/

def demo : State :=
  let s := State.reset.withFetchWord 64 0
  { s with agenda := [] }.setWarp { s.warp with exec := 3 }
def withWarp (f : Warp → Warp) : State := demo.setWarp (f demo.warp)
def withWg (f : Wg → Wg) : State := demo.setWg (f demo.wg)
def withCore (f : Core → Core) : State := demo.setCore (f demo.core)
def withCtx (f : Ctx → Ctx) : State := demo.setCtxAt 0 (f demo.ctx)
def withS (l : List (Nat × DWord)) : State := withWarp fun w => { w with s := l }
/-- The fields of a word: D, A, B and C. -/
def fields (d : Reg) (a b c : Src) : Ops := ⟨.e0, false, false, d, a, b, c⟩
def plain : Sync := ⟨.relaxed, .warp⟩
def va : Src := .lit 0x400100

/-! Witnesses: registers and lanes. -/

theorem wit_scalar : (scalarRow (.sdiv (fields 3 (.sca 1) (.sca 2) .zero))).isSome = true
    ∧ (maskRow (.maskIf (fields 3 (.sca 1) .zero .zero))).isSome = true
    ∧ (execReadRow (.exrd (fields 3 .zero .zero .zero))).isSome = true := by decide +kernel
theorem wit_counts : 5 < 2 ^ 3 ∧ (0 : Nat) < 2 ^ 3 := by decide
theorem wit_lanes : demo.warp.exec ≠ 0
    ∧ (intRow (.add (fields 3 (.vec 1 .ident) (.vec 2 .ident) .zero))).isSome = true
    ∧ (floatRow (.fadd (fields 3 (.vec 1 .ident) (.vec 2 .ident) .zero) .f32)).isSome = true
    ∧ (cmpRow (.cmpeq (fields 3 (.vec 1 .ident) (.vec 2 .ident) .zero))).isSome = true
    ∧ (pairRow (.add64 (fields 4 (.vec 2 .ident) (.vec 2 .ident) .zero))).isSome = true
    ∧ (affineRow demo.warp (.vidx (fields 3 .zero .zero .zero))).isSome = true
    ∧ (vtagRow (.vtag (fields 3 (.vec 2 .ident) .zero .zero))).isSome = true
    ∧ firstNonUni demo.warp (srcsOf [.vec 1 .ident, .vec 2 .ident]) = none := by decide +kernel
theorem wit_empty : (idleRow (.add (fields 3 (.vec 1 .ident) (.vec 2 .ident) .zero))).isSome = true
    ∧ (withWarp fun w => { w with exec := 0 }).warp.exec = 0 := by decide +kernel
/-- v1 holds one value a lane. -/
def nonUni : State := withWarp fun w => writeV w 1 (.gen [1, 2])
theorem wit_uniform : nonUni.warp.exec ≠ 0 ∧ firstNonUni nonUni.warp (srcsOf [.vec 1 .ident, .vec 2 .ident]) = some 0 := by
  decide +kernel
/-- v1 is affine and every lane is active. -/
def affine : State := withWarp fun w => { writeV w 1 (.aff 5 3) with exec := wmask 64 }
theorem wit_shapes : affine.warp.exec = affine.wm ∧ affine.wm ≠ 0 ∧ shapeOf affine.warp (.vec 1 .ident) = .aff 5 3
    ∧ shapeOf affine.warp (.vec 2 .ident) = .uni 0 := by decide +kernel
theorem wit_cross : demo.warp.exec ≠ 0 ∧ demo.warp.lanes demo.width = [0, 1] := by decide +kernel

/-! Global memory. -/

/-- A reduction of the executing warp is on its way. -/
def withRed : State := { demo with reds := [⟨0, 0, 0x80200, .add, false, [7]⟩] }
theorem wit_load : (loadRow (.ld (fields 3 va .zero .zero) ⟨false, 0⟩ .w32 plain)).isSome = true ∧ demo.warp.exec ≠ 0
    ∧ ∀ l ∈ bodyLanes demo.warp demo.width false,
      demo.reaches (globalAddr demo.warp demo.width ⟨false, 0⟩ (opd (fields 3 va .zero .zero)) true l) 4 .read true 0x80100 = true
        ∧ demo.linePoisoned 0x80100 = false := by decide +kernel
theorem wit_load_scalar : demo.reaches (globalAddr demo.warp 64 ⟨false, 0⟩ (opd (fields 3 va .zero .zero)) true 0) 8 .read true 0x80100 = true
    ∧ demo.reaches (globalAddr demo.warp 64 ⟨false, 0⟩ (opd (fields 3 va .zero .zero)) true 0) 8 .write true 0x80100 = true
    ∧ demo.linePoisoned 0x80100 = false := by decide +kernel
theorem wit_store : ∀ l ∈ bodyLanes demo.warp demo.width false,
    demo.reaches (globalAddr demo.warp demo.width ⟨false, 0⟩ (opd (fields 3 va .zero .zero)) true l) 4 .write true 0x80100 = true := by
  decide +kernel
theorem wit_atomic : (∀ l ∈ bodyLanes demo.warp demo.width false,
    demo.reaches (globalAddr demo.warp demo.width ⟨false, 0⟩ (opd (fields 3 va .zero .zero)) false l) 4 .rw false 0x80100 = true
      ∧ demo.linePoisoned 0x80100 = false) ∧ wordsApart (bodyLanes demo.warp demo.width false) (fun _ => 0x80100) 4 :=
  ⟨by decide +kernel, fun _ _ _ _ => .inl rfl⟩
theorem wit_reduction : withRed.reds[0]? = some ⟨0, 0, 0x80200, .add, false, [7]⟩ ∧ withRed.linePoisoned 0x80200 = false := by
  decide +kernel
/-- Lane 0 reads below the page, which nothing maps. -/
theorem wit_fault : (accessRow demo.warp demo.width (.ld (fields 3 (.lit 0x300000) .zero .zero) ⟨false, 0⟩ .w32 plain)).isSome = true
    ∧ (∀ j ∈ bodyLanes demo.warp demo.width false, demo.xlateW 0x300000 4 .read ≠ .wait)
    ∧ 0 ∈ bodyLanes demo.warp demo.width false ∧ demo.accessCause 0x300000 4 .read true = some 0x08 := by decide +kernel

/-! Scratchpad. -/

theorem wit_local : ∀ l ∈ bodyLanes demo.warp demo.width false,
    localCause demo.wg (localAddr demo.warp demo.width (opd (fields 3 (.imm 64) .zero .zero)) true l) 8 = none
      ∧ demo.locPoisoned demo.wg 64 8 = false ∧ demo.core.latent = [] := by decide +kernel
theorem wit_modify : (modifyRow demo.warp demo.width (.bnkCas (fields 3 (.imm 64) .zero .zero) false)).isSome = true
    ∧ (modifyRow demo.warp demo.width (.atoml (fields 3 (.imm 64) (.vec 1 .ident) .zero) .add .relaxed)).isSome = true := by
  decide +kernel
theorem wit_xms : bodyLanes demo.warp demo.width false ≠ [] := by decide +kernel
/-- A shape record of 4 by 2 elements, rows 64 bytes apart. -/
def shaped : State := demo.padWrite 0 0x200 (leBytes 2 4 ++ leBytes 2 2 ++ leBytes 2 1 ++ leBytes 2 0 ++ leBytes 4 64 ++ leBytes 4 4)
theorem wit_bulk_issue : bulkFault demo.wg 0x400 ⟨0, 0x100 / 4, 1, 1, 0, 0⟩ none none = none ∧ objectOk demo.wg 0x400 [] = true := by
  decide +kernel
theorem wit_bulk_shape :
    let d := shapeRecord 0 (shaped.padRead shaped.wg.core (shaped.wg.base + 0x200) 16)
    d.2 = true ∧ d.1.n0 = 4 ∧ d.1.n1 = 2 ∧ bulkFault shaped.wg 0x400 d.1 none none = none
      ∧ shaped.locPoisoned shaped.wg 0x200 16 = false ∧ shaped.core.latent = [] := by decide +kernel
theorem wit_bcpy_issue : (256 : Nat) % 64 = 0 ∧ 0x400 % 1024 = 0x800 % 1024 ∧ 0x800 + 256 ≤ demo.wg.alloc ∧ 0x200 + 16 ≤ demo.wg.alloc
    ∧ (0x400 + 256 ≤ 0x800 ∨ 0x800 + 256 ≤ 0x400) := by decide +kernel
/-- A BULK of four words and a BCPY in flight. -/
def banked : State := withCore fun c => { c with
  bank := [.bulk 0 0 0 .add false 5 0 0 4 1 1 0 0 0 0x400, .bcpy 1 0 0 0x800 0xC00 64 1 0x410] }
theorem wit_bank : (banked.coreAt 0).bank[0]? = some (.bulk 0 0 0 .add false 5 0 0 4 1 1 0 0 0 0x400)
    ∧ (banked.coreAt 0).bank[1]? = some (.bcpy 1 0 0 0x800 0xC00 64 1 0x410)
    ∧ ((banked.coreAt 0).bank.take 1).all (fun c => !c.holds (.bcpy 1 0 0 0x800 0xC00 64 1 0x410)) = true
    ∧ (banked.wgAt 0).core = 0 ∧ (banked.coreAt 0).latent = [] ∧ (banked.coreAt 0).poison = []
    ∧ (∀ e ∈ (⟨0, 4, 1, 1, 0, 0⟩ : Shape3).elems, e % 4 = 0 ∧ (e + 4 ≤ 0x400 ∨ 0x400 + 16 ≤ e)) := by decide +kernel
theorem wit_tags : (tagRow (.tagi (fields 3 (.vec 1 .ident) (.vec 2 .ident) .zero))).isSome = true
    ∧ tagFind 5 [⟨5, 1⟩] = some 1 ∧ tagFind 6 [⟨5, 1⟩] = none := by decide +kernel
/-- A table of one segment at offset 0. -/
def tabled : State := demo.padWrite 0 0 (leBytes 4 0 ++ leBytes 4 0x3F800000 ++ leBytes 8 0 ++ leBytes 2 1)
theorem wit_tables :
    let h := tabled.padRead 0 0 32
    leNat ((h.drop 16).take 2) = 1 ∧ 32 + 8 ≤ tabled.wg.alloc ∧ tabled.locPoisoned tabled.wg 0 40 = false
      ∧ sepiaOk (leNat (h.take 4)) (leNat ((h.drop 4).take 4)) 1 (h.drop 18) = true ∧ tabled.width = 64
      ∧ tabled.core.latent = [] ∧ tabled.actsInFlight false (tabled.actldNo false) = false ∧ demo.actHeld false = false := by
  decide +kernel

/-! Asynchronous copies. -/

/-- The state with these scratchpad bytes at local offset 0x100, s5 = 0x400 and the page's only translation. -/
def recorded (b : List Byte) : State := (withS [(5, 0x400)]).padWrite 0 0x100 b
def pageX : List Xlat := [⟨8, 0, 0x80000⟩]
theorem wit_copy_issue :
    let s := recorded []
    (s.queue 0 2).length < 16 ∧ readS s.warp 5 = 0x400 ∧ objectOk s.wg 0x800 [(0x400, 64)] = true
      ∧ firstOutside s.wg [(0x400, 64)] = none ∧ s.checkRanges 0 0 [⟨0x400100, 64, [.engRead], 4⟩] [] = .ok pageX
      ∧ sidesOverlap (.glob 0x400100) (.loc 0x400) 64 = none := by decide +kernel
/-- R87: two ranges share bytes 0 to 7 past the end of the address space, and one of them its first bytes with itself. -/
theorem test_overlap_wraps : sidesOverlap (.glob 0xFFFFFFFFFFFFFFF8) (.glob 0) 16 = some 0
    ∧ sidesOverlap (.glob 0xFFFFFFFFFFFFFFF8) (.glob 8) 16 = none
    ∧ sidesOverlap (.glob 0xFFFFFFFFFFFFFFF0) (.glob 0xFFFFFFFFFFFFFFFC) 16 = some 0xFFFFFFFFFFFFFFFC := by decide +kernel
/-- A described tile of one row of 64 columns at offset 0x400, READY. -/
def tile64 : TileEntry := tileOf true .m7 0x100 64
def tiled : State := withWg fun g => { g with tiles := [(3, tile64)], accs := [(4096 + 64, 5)] }
theorem wit_tile_copy :
    let c : TileCopy := ⟨true, 0, 3, tile64, 0x401000, 0, 0, false, false⟩
    tiled.wg.tile 3 = tile64 ∧ tile64.v = true ∧ tile64.state = .ready ∧ tiled.tileFree 3 = true ∧ c.bad = false
      ∧ tile64.layout = false ∧ objectOk tiled.wg 0x200 tile64.locs = true ∧ firstOutside tiled.wg tile64.locs = none
      ∧ tiled.checkRanges 0 0 [⟨c.va, c.extent, [.engWrite], 4⟩] [] = .ok pageX := by decide +kernel
/-- An index descriptor in scratchpad: four rows of 16 bytes at 0x401000, offsets at 0x402000, local rows at 0x400. -/
def gathered : State := recorded (leBytes 8 0x401000 ++ leBytes 4 8 ++ leBytes 2 16 ++ leBytes 1 1 ++ leBytes 1 0 ++ leBytes 8 0
  ++ leBytes 8 0 ++ leBytes 8 0x402000 ++ leBytes 4 4 ++ leBytes 4 0 ++ leBytes 4 0x400 ++ leBytes 2 0 ++ leBytes 10 0)
theorem wit_gather :
    let s := gathered
    let d := idxDesc (s.padRead 0 0x100 64)
    (indexRow (.gath (fields 0 (.imm 0x100) (.imm 0x200) .zero) 1)).isSome = true ∧ d.2 = true ∧ d.1.ok 0 = true ∧ d.1.ok 1 = true
      ∧ d.1.ok 2 = true ∧ objectOk s.wg 0x200 d.1.locs = true ∧ firstOutside s.wg d.1.locs = none
      ∧ s.locPoisoned s.wg 0x100 64 = false ∧ s.checkRanges 0 0 (d.1.ranges 0) [] = .ok (pageX ++ pageX)
      ∧ s.checkRanges 0 0 (d.1.ranges 2) [] = .ok (pageX ++ pageX) := by decide +kernel
/-- A command at the head of queue 0. -/
def queued (c : Cmd) : State := withCore fun x => { x with queues := [(0, [c])] }
def copyIn : Cmd := { id := 1, wg := 0, warp := 0, kind := .cpy (.glob 0x400100) (.loc 0x400) 64, xlat := pageX, obj := 0x800, count := 64 }
theorem wit_engine : (queued copyIn).isFrozen 0 (engineUnit 0 0) = false ∧ (queued copyIn).engineBusy 0 0 = false
    ∧ (queued copyIn).queue 0 0 = [copyIn] ∧ copyIn.waiting = true
    ∧ ∀ i, i < 64 → isPeer (xkey pageX (0x400100 + i)) = false ∧ (queued copyIn).linePoisoned (xkey pageX (0x400100 + i)) = false := by
  refine ⟨?_, ?_, ?_, ?_, ?_⟩ <;> decide +kernel
def copyOut : Cmd := { copyIn with kind := .cpy (.loc 0x400) (.glob 0x400100) 64 }
theorem wit_copy_out : (∀ i, i < 64 → isPeer (xkey pageX (0x400100 + i)) = false)
    ∧ (∀ i, i < 64 → ∀ j, j < 64 → xkey pageX (0x400100 + i) = xkey pageX (0x400100 + j) → i = j)
    ∧ ((queued copyOut).coreAt 0).latent = [] ∧ (queued copyOut).locPoisoned (queued copyOut).wg 0x400 64 = false := by
  refine ⟨?_, ?_, ?_, ?_⟩ <;> decide +kernel
def performed : Cmd := { copyIn with stage := .performed, peer := true, engine := some 0 }
theorem wit_complete : (queued performed).queue 0 0 = [performed] ∧ performed.reds = [] ∧ performed.peer = true
    ∧ (queued performed).cmdFrozen 0 performed = false := by decide +kernel
def reducing : Cmd := { performed with reds := [⟨0, 0, 0x80200, .add, false, [7]⟩] }
theorem wit_scat_red : (queued reducing).queue 0 0 = [reducing] ∧ reducing.reds[0]? = some ⟨0, 0, 0x80200, .add, false, [7]⟩
    ∧ (queued reducing).cmdFrozen 0 reducing = false ∧ (queued reducing).linePoisoned 0x80200 = false := by decide +kernel
def fence : Cmd := { id := 9, wg := 0, warp := 0, kind := .qfence [5] true, obj := 0x800, count := 1 }
theorem wit_qfence : (queued fence).queue 0 0 = [fence]
    ∧ (∀ id ∈ [5], ∀ k, k < 8 → ∀ m ∈ (queued fence).queue 0 k, m.id ≠ id) ∧ 0x07 < 256 := by decide +kernel
theorem wit_arrival : objectOk demo.wg 0x100 [] = true ∧ demo.core.latent = [] ∧ (1 : Nat) < 2 ^ 47
    ∧ sext 48 1 + 1 ≤ 2 ^ 47 - 1 ∧ 2 ^ 47 - 1 < sext 48 (2 ^ 47 - 1) + 1 := by decide +kernel

/-! Decoders. -/

/-- A decode record of one frame of one patch: bitstream at 0x401000, window at 0x400, object at 0x200, status at 0x402000. -/
def decRec : List Byte := leBytes 8 0x401000 ++ leBytes 4 100 ++ leBytes 2 1 ++ leBytes 1 0 ++ leBytes 1 0 ++ leBytes 2 0 ++ leBytes 2 0
  ++ leBytes 2 1 ++ leBytes 2 1 ++ leBytes 4 0x400 ++ leBytes 4 384 ++ leBytes 4 0x200 ++ leBytes 4 0 ++ leBytes 8 0x402000 ++ leBytes 16 0
def submitted : State := demo.writeMem 0x80100 decRec
theorem wit_decoder_submit :
    let b := (submitted.engRead pageX 0x400100 64).1
    let r := decRecord 0 0 (b.map Prod.fst)
    submitted.checkRange 0 0 ⟨0x400100, 64, [.engRead], 4⟩ = .ok pageX ∧ anyPoison b = false ∧ r.2 = true ∧ r.1.ok = true
      ∧ r.1.window = 384 ∧ objectOk submitted.wg r.1.arv r.1.locs = true ∧ firstOutside submitted.wg r.1.locs = none
      ∧ submitted.checkRanges 0 0 r.1.ranges [] = .ok (pageX ++ pageX) ∧ (submitted.decoderAt 0 3).held < 16 := by decide +kernel
def theRec : DecRec := { (decRecord 0 0 decRec).1 with xlat := pageX, id := 4 }
def decoding : State := demo.setDecoderAt 0 0 { active := some (theRec, 0), queue := [theRec] }
theorem wit_decoder_queue :
    let s := demo.setDecoderAt 0 0 { queue := [theRec] }
    (s.decoderAt 0 0).active = none ∧ (s.decoderAt 0 0).queue = [theRec] ∧ s.isFrozen 0 (decoderUnit 0 0) = false
      ∧ (s.ctxAt (s.wgAt theRec.wg).ctx).replay = false := by decide +kernel
theorem wit_decoder_frame : (decoding.decoderAt 0 0).active = some (theRec, 0) ∧ (decoding.decoderAt 0 0).held < 32
    ∧ decoding.isFrozen 0 (decoderUnit 0 0) = false ∧ theRec.arv + 16 ≤ theRec.dst
    ∧ (∀ j, j < 4 → isPeer (xkey pageX (theRec.sta.toNat + j)) = false)
    ∧ ∀ j, j < 4 → ∀ k, k < 4 → xkey pageX (theRec.sta.toNat + j) = xkey pageX (theRec.sta.toNat + k) → j = k := by
  refine ⟨?_, ?_, ?_, ?_, ?_, ?_⟩ <;> decide +kernel

/-- Two temporal units: a key frame without a sequence header, a hidden frame and a padding OBU; then an OBU of an extension, a
frame shown again, and an OBU that the end cuts off. -/
def stream : List Byte := [0x12, 0, 0x32, 2, 0x10, 0xAA, 0x32, 1, 0x20, 0x7A, 1, 0x80, 0x12, 0, 0x2E, 0x28, 1, 0, 0x1A, 1, 0xA0, 0x32, 9, 0]
/-- R76: the OBUs of the low-overhead format. -/
theorem test_obus : (splitObus 24 stream).map (fun o => (o.type, o.ids, o.body)) =
    [(2, none, []), (6, none, [0x10, 0xAA]), (6, none, [0x20]), (15, none, [0x80]), (2, none, []), (5, some (1, 1), [0]), (3, none, [0xA0])] := by
  decide +kernel
/-- R80: after the first frame's error the hidden one is skipped, decoding resumes at the next temporal unit, and then the bitstream
is exhausted. -/
theorem test_resume : let c := scanAv1 0 7 [] true stream
    c.obus = [[0x12, 0], [0x32, 2, 0x10, 0xAA], [0x12, 0], [0x1A, 1, 0xA0]] ∧ c.out.map (fun p => (p.1.length, p.2.head)) = [(0, [0x10, 0xAA]), (0, [0xA0])]
      ∧ (c.frame 7 0).2.code 0 0 = 1 ∧ (c.frame 7 1).2.code 0 0 = 1 ∧ (c.frame 7 2).2.code 0 0 = 4
      ∧ (c.frame 7 0).2.type = 0 ∧ (c.frame 7 0).2.refreshes = 0xFF ∧ (c.frame 7 1).2.existing = true ∧ (c.frame 7 1).2.reads = 4 := by
  decide +kernel
/-- Operating point 0, past timing information: temporal and spatial layer 0. -/
def layered : List Byte := [4, 0, 0, 0, 0, 0, 0, 0, 0, 0, 0x40, 0x40]
theorem test_operating_point : opPoint layered = 0x101 ∧ (⟨6, some (0, 0), [], []⟩ : Obu).decoded layered = true
    ∧ (⟨6, some (1, 0), [], []⟩ : Obu).decoded layered = false ∧ (⟨1, some (1, 0), [], []⟩ : Obu).decoded layered = true := by decide +kernel
/-- A bitstream in decode: OBUs are skipped, and a shown frame is open. -/
def skipping : Av1Scan := { seq := [], fresh := false, skip := true }
def openFrame : Av1 := ⟨.coded, [], [], [0x10], false, 7⟩
theorem wit_scan : skipping.skip = true ∧ skipping.cur = none ∧ (⟨6, none, [], []⟩ : Obu).type ∉ [2, 4, 7]
    ∧ ({ skipping with cur := some openFrame } : Av1Scan).cur = some openFrame ∧ (⟨6, none, [], []⟩ : Obu).decoded [] = true
    ∧ openFrame.shown = true ∧ openFrame.own 0 = 1 ∧ (⟨5, none, [], []⟩ : Obu).type ∉ [1, 2, 3, 4, 6, 7, 8] ∧ skipping.out.length ≤ 0
    ∧ (⟨2, none, [], []⟩ : Obu).type = 2 ∧ 6 < 16 ∧ ([0x10] : List Byte).length < 128 := by
  decide +kernel

/-! Tiles and the matrix engine. -/

theorem wit_tiles : 3 < tiled.wg.fp.tiles ∧ tiled.tileFree 3 = true ∧ (tileOf true .m7 0x100 64).layout = false
    ∧ 4 * 0x100 + (tileOf true .m7 0x100 64).bytes ≤ tiled.wg.alloc := by decide +kernel
/-- B in tile 4: stationary, 32 by 32; A in tile 5: 8 rows of 32 columns. -/
def operands : State := withWg fun g => { g with tiles := [(4, tileOf true .m7 0x100 (2 ^ 10 + 31)), (5, tileOf true .m7 0x200 7)] }
theorem wit_matrix_issue : (matrixRow operands (.mma (fields 2 (.vec 5 .ident) (.vec 4 .ident) .zero))).map (fun p => p.2.2) = some true
    ∧ (matrixRow operands (.acczC ⟨false, false, 2, 0, 0⟩)).isSome = true ∧ operands.core.matq.length < 8
    ∧ 0x400 + 256 * ((ownedRows operands.width operands.warp.exec).getLast?.getD 0) + 256 ≤ operands.wg.alloc
    ∧ operands.warp.stall = none ∧ 2 < operands.wg.fp.accs := by decide +kernel
/-- The operation of an ACCR of accumulator 2 has started, and its warp waits for it; what it gives the warp, and the register. -/
def reading : State :=
  let s := tiled.setCore { tiled.core with matq := [⟨7, 0, 0, 2, .accr 16 [3, 5], true⟩] }
  (s.setWg { s.wg with accs := [(4096 * 2 + 64 * 16 + 3, 0x11), (4096 * 2 + 64 * 17 + 5, 0x22)] }).setWarp
    { s.warp with stall := some (.accr 7 none) }
def readDone : State := reading.setWarp { reading.warp with stall := some (.accr 7 (some [0x11, 0x22])) }
theorem wit_accr : (reading.coreAt 0).matq[0]? = some ⟨7, 0, 0, 2, .accr 16 [3, 5], true⟩
    ∧ (reading.warpAt 0).stall = some (.accr 7 none) ∧ readDone.warp.stall = some (.accr 7 (some [0x11, 0x22]))
    ∧ readDone.warp.exec ≠ 0 ∧ (tiled.warpAt 0).stall ≠ some (.accr 7 none) := by decide +kernel
/-- A matrix queue with a started drain of accumulator 1 and an ACCZ of accumulator 2 behind it. -/
def matrix : State := tiled.setCore { tiled.core with
  matq := [⟨1, 0, 0, 1, .accd 3 none 0x200, true⟩, ⟨2, 0, 0, 2, .accz 3, false⟩] }
theorem wit_matrix : ((matrix.coreAt 0).matq[1]? = some ⟨2, 0, 0, 2, .accz 3, false⟩
    ∧ ∀ e ∈ (matrix.coreAt 0).matq.take 1, ¬(e.wg = 0 ∧ e.acc = 2)) ∧ (matrix.wgAt 0).core = 0
    ∧ (matrix.coreAt 0).matq[0]? = some ⟨1, 0, 0, 1, .accd 3 none 0x200, true⟩ ∧ (matrix.coreAt 0).latent = []
    ∧ 0x200 + 16 ≤ ((matrix.wgAt 0).tile 3).base.toNat ∧ (operands.wg.tile 4).cols ≤ 64
    ∧ objectOk tiled.wg 0x200 ((accdTiles 3 none).flatMap fun k => (tiled.wg.tile k).locs) = true
    ∧ accdFault 3 none tiled.wg = none ∧ (∀ k ∈ accdTiles 3 none, tiled.tileFree k = true) := by decide +kernel

/-! Sets. -/

/-- Two sets of a universe of 100 keys with members 3 and 7, and two free entries. -/
def small : SetVal := { u := 100, layout := .direct, panes := [⟨0, .list, [3, 7]⟩] }
def sets : State := withCtx fun c => { c with
  sht := 0x20000, shtn := 4, arena := 0x30000, arenag := 1000
  sets := [(0, { check := 1, v := true, val := small }), (1, { check := 1, v := true, val := small })] }
def setH (n : Nat) : Src := .lit (BitVec.ofNat 32 (0x01000000 + n))
theorem wit_set_lane : (setLaneRow (.setIns (fields 3 (setH 0) (.vec 0 .ident) .zero))).isSome = true ∧ sets.usable 0x01000000 = true
    ∧ (∀ k ∈ laneKeys sets (opd (fields 3 (setH 0) (.vec 0 .ident) .zero)), k.2 < small.u)
    ∧ laneReserve small 2 ≤ sets.ctx.freeGranules := by decide +kernel
theorem wit_set_good : small.good := ⟨by simp only [small]; intro x hx; simp at hx; subst hx; exact ⟨by simp [rising], by decide⟩, ⟨_, rfl, rfl⟩⟩
/-- A hashed set of key 5 in its own slot. -/
def hashed : SetVal := { u := 2 ^ 32, layout := .hashed, cap := 16, slots := [(hashPos 16 5, 5)] }
theorem wit_hashed : ∀ p ∈ hashed.slots, p.2 ≠ emptySlot ∧ Tab.get emptySlot p.1 hashed.slots = p.2
    ∧ (lookupSlot hashed.cap p.2.toNat hashed.slots).2.1 = true := by decide +kernel
theorem wit_set_management : 2 < sets.ctx.shtn ∧ (sets.ctx.set 2).v = false ∧ (∀ j, j < 2 → (sets.ctx.set j).v = true)
    ∧ 4 + (SetVal.empty 100).granules ≤ sets.ctx.freeGranules ∧ sets.ctx.stale 0x01000000 = false
    ∧ sets.sliceFrozen (sets.ctx.set 0).home = false ∧ sets.ctx.setCmds = [] ∧ 0 < maxPanes small.u
    ∧ sets.pinned 0 0 0 + small.pinBytes ≤ 2 ^ 20 ∧ sets.ctx.sameU [0x01000000, 0x01000001] = true := by decide +kernel
/-- The destination register s6 names set 1. -/
noncomputable def union : Instr := .setUnion (fields 6 (setH 0) (setH 1) (.imm 0x200))
def bulkSets : State := sets.setWarp { sets.warp with s := [(6, 0x01000001)] }
theorem wit_set_bulk : (setBulkRow bulkSets union).map (fun p => (p.2.obj, p.2.hs, p.2.bad)) =
      some (0x200, [0x01000000, 0x01000001, 0x01000001], false)
    ∧ (setBulkRow bulkSets union).map (fun p => decide (p.2.reserve ≤ bulkSets.ctx.freeGranules)) = some true
    ∧ (setBulkRow bulkSets union).map (fun p => p.2.range) = some [] ∧ objectOk bulkSets.wg 0x200 [] = true
    ∧ ([0x01000000, 0x01000001].all fun h => !bulkSets.ctx.stale h && !(bulkSets.ctx.set (handleIndex h)).lost) = true
    ∧ bulkSets.ctx.sameU [0x01000000, 0x01000001, 0x01000001] = true
    ∧ bulkSets.checkRanges 0 0 [] [] = .ok [] := by decide +kernel
def unionCmd : SetCmd := { id := 0, wg := 0, warp := 0, kind := .union, d := 1, a := 0, b := 1, ha := 0x01000000, hb := 0x01000001, obj := 0x200 }
def waitingSet : State := sets.setCtxAt 0 { sets.ctxAt 0 with setCmds := [unionCmd] }
def startedSet : State := sets.setCtxAt 0 { sets.ctxAt 0 with
  setCmds := [{ unionCmd with started := true, va := some small, vb := some small }] }
theorem wit_set_start : (waitingSet.ctxAt 0).setCmds[0]? = some unionCmd ∧ unionCmd.kind.readsA = true
    ∧ waitingSet.sliceFrozen ((waitingSet.ctxAt 0).cmdHome unionCmd) = false
    ∧ (∀ x ∈ [1, 0, 1], ((waitingSet.ctxAt 0).set x).home = 0 ∧ waitingSet.poisonedSet 0 x = false
      ∧ ((waitingSet.ctxAt 0).set x).lost = false) ∧ (waitingSet.ctxAt 0).cmdHome unionCmd = 0
    ∧ (startedSet.ctxAt 0).setCmds[0]? = some { unionCmd with started := true, va := some small, vb := some small }
    ∧ startedSet.sliceFrozen ((startedSet.ctxAt 0).cmdHome unionCmd) = false ∧ small.u ≤ 4096 ∧ small.layout = .direct
    ∧ (startedSet.coreAt 0).latent = [] := by decide +kernel

/-! Control flow. -/

/-- A taken transfer, one that is not taken, one to a misaligned and one to a non-canonical address. -/
theorem wit_transfer :
    let w := (withS [(5, 0x400801), (6, 0x0080000000000000)]).warp
    (transferRow w (.jmp (fields 0 (.imm 16) .zero .zero))).isSome = true
      ∧ (transferRow w (.br (fields 0 (.imm 0) (.imm 16) .zero))).map (fun p => p.2.1) = some false
      ∧ targetOf w (.imm 16) = 0x400040 ∧ canonical (targetOf w (.imm 16)) = true
      ∧ (targetOf w (.sca 5)).toNat % 4 ≠ 0 ∧ (targetOf w (.sca 6)).toNat % 4 = 0 ∧ canonical (targetOf w (.sca 6)) = false := by
  decide +kernel
theorem wit_sleep : (demo.setWarpAt 0 { demo.warpAt 0 with sleep := some 5 }).warp.sleep = some 5 := by decide +kernel
/-- A warp alone in its cohort, and a second warp that waits there. -/
def two : State := ((demo.setWg { demo.wg with fp := { demo.wg.fp with warps := 2 }, cohorts := [(0, { members := 3, arrived := 2 })] }).setWarpAt 1
  { demo.warp with run := .bar 0 3, blkLen := 4, stint := none })
theorem wit_barrier : demo.warp.run = .running ∧ warpNo demo.cur < demo.wg.fp.warps ∧ demo.wg.haltBy = none
    ∧ ((1 ||| demo.exited 0) &&& (demo.wg.cohort 0).members = (demo.wg.cohort 0).members)
    ∧ two.warp.run = .running ∧ 1 ∈ two.wg.keys 0 ∧ (two.warpAt 1).run.atBar = some 0
    ∧ (1 ||| 2 ||| two.exited 0) &&& (two.wg.cohort 0).members = (two.wg.cohort 0).members := by decide +kernel
theorem wit_wait : (0x200 % 16 = 0 ∧ 0x200 + 16 ≤ demo.wg.alloc) ∧ demo.core.latent = []
    ∧ demo.reds = [] ∧ (demo.wgAt 0).place = .resident
    ∧ demo.xlate 0 0 0x400100 8 .read = .ok 0x80100 ⟨19, 0, 0x80000, false, true, true, true⟩
    ∧ demo.linePoisoned 0x80100 = false := by decide +kernel
/-- A launch record at 0x400100: entry 0x400000, one workgroup of one 16-lane warp, counter at `ctr`. -/
def launching (ctr : Nat) : State := demo.writeMem 0x80100 (leBytes 8 0x400000 ++ leBytes 4 1 ++ leBytes 1 1 ++ leBytes 1 0 ++ leBytes 1 0
  ++ leBytes 1 1 ++ leBytes 1 1 ++ leBytes 1 0 ++ leBytes 1 0 ++ leBytes 1 1 ++ leBytes 4 0 ++ leBytes 8 0 ++ leBytes 8 0 ++ leBytes 8 ctr
  ++ leBytes 16 0)
def counterOf : LaunchCheck → Option DWord | .ok e _ => some e.fp.counter | _ => none
theorem wit_launch : counterOf ((launching 0).launchCheck 0 0 0x400100 0) = some 0
    ∧ counterOf ((launching 0x400200).launchCheck 0 0 0x400100 0) = some 0x400200
    ∧ (launching 0x400200).signalTo 0 0x400200 = .key 0x80200 ∧ (launching 0).wg.depth ≠ 4 ∧ (launching 0).wg.launchQ = []
    ∧ (withWg fun g => { g with depth := 4 }).wg.depth = 4 := by decide +kernel
def entry0 : LaunchEntry := { raw := [], map := [], fp := {}, push := 0 }
/-- Clock 256, an entry in the queue, and a warp that waits with another. -/
def pending : State := ((withWg fun g => { g with launchQ := [entry0] }).setCore { demo.core with clk := 256 }).setWarp
  { demo.warp with run := .launch entry0 0x400100 }
theorem wit_pending : (pending.warpAt 0).run = .launch entry0 0x400100 ∧ (pending.wgAt 0).launchQ = [entry0]
    ∧ (pending.ctxAt 0).preempt = none ∧ entry0.push + 256 ≤ (pending.coreAt 0).clk ∧ (pending.wgAt 0).lastTake = none
    ∧ (pending.wgAt 0).place = .resident := by decide +kernel

/-! Exceptions. -/

/-- A vector table at 0x400800 that handles every cause from 0x20 to 0x2F at 0x400400. -/
def vectored : State := (withWarp fun w => { w with tvb := 0x400800 }).writeMem 0x80900
  ((List.replicate 16 (leBytes 8 0x400401)).flatten)
theorem wit_trap : (trapRow vectored.warp (.trap (fields 0 (.imm 7) .zero .zero))).isSome = true
    ∧ vectored.readVector vectored.cur 0x29 = .ok 0x400401 ∧ policyOf 0x400401 0x29 = .handle
    ∧ vectored.warp.handler = false ∧ vectored.warp.run = .running ∧ vectored.warp.notice = none ∧ vectored.wg.haltBy = none
    ∧ vectored.ctx.debugger = none ∧ policyOf 0x400402 0x29 = .haltGroup ∧ vectored.siblingsStopped vectored.cur = true := by
  decide +kernel
/-- A warp in its handler whose broadcast has halted another warp. -/
def handling : State := ((two.setWarp { two.warp with handler := true, tpc := 0x400010, texec := 1, handling := some ⟨0x29, 0x400010, 0, 0, 0, [], 0, false⟩ }).setWg
  { two.wg with haltBy := some ⟨0, ⟨0x29, 0x400010, 0, 0, 0, [], 0, false⟩, some 0x400402, none⟩ }).setWarpAt 1
  { two.warpAt 1 with run := .halted (some (0, 3)) false }
theorem wit_rett : handling.warp.tpc.toNat % 4 = 0 ∧ canonical handling.warp.tpc = true ∧ handling.warp.trapQ = []
    ∧ (handling.wg.haltBy.map HaltBy.warp) = some (warpNo handling.cur) ∧ (0x400011 : DWord).toNat % 4 ≠ 0
    ∧ (0x0080000000000000 : DWord).toNat % 4 = 0 ∧ canonical 0x0080000000000000 = false := by decide +kernel
theorem wit_system : (sysWritten demo.warp 64 .tvb 0x400800).2 ∧ ¬(sysWritten demo.warp 64 .fmode 8).2 ∧ 5 < demo.wg.fp.sregs
    ∧ demo.wg.fp.sregs ≤ 64 := by
  refine ⟨⟨by decide, by decide⟩, by simp [sysWritten], by decide +kernel, by decide +kernel⟩
/-- A second warp runs, and warp 0 has been told to halt between stints, or has an asynchronous entry. -/
def told : State := (two.setWarpAt 1 { demo.warp with stint := none }).setWarp { demo.warp with notice := some 0, stint := none }
def event : TrapEntry := { cause := 0x28, pc := 0, async := true }
def asyncHead : State := vectored.setWarp { vectored.warp with trapQ := [event] }
theorem wit_halt : (told.warpAt 0).notice = some 0 ∧ told.siblingsStopped 0 = false ∧ (told.warpAt 0).stint = none := by decide +kernel
theorem wit_async : demo.hasWg 0 = true ∧ (demo.wgAt 0).place = .resident ∧ warpNo 0 < (demo.wgAt 0).fp.warps
    ∧ (demo.warpAt 0).run ≠ .exited ∧ (asyncHead.warpAt 0).trapQ = [event] ∧ event.async = true
    ∧ (asyncHead.warpAt 0).stint = some 0 ∧ (asyncHead.warpAt 0).sleep = none
    ∧ asyncHead.readVector 0 0x28 = .ok 0x400401 ∧ policyOf 0x400401 0x28 = .handle := by decide +kernel
/-- A warp in its handler beside a running one, and an error ring with room. -/
def twice : State := ((two.setWarp { two.warp with handler := true, handling := some event }).setWarpAt 1 { demo.warp with stint := none }).setCtxAt 0
  { demo.ctx with errn := 64, err := memKey 2 0x1000 }
theorem wit_double : twice.warp.handler = true ∧ twice.warp.notice = none ∧ twice.warp.handling = some event
    ∧ twice.siblingsStopped twice.cur = false
    ∧ (∀ k ∈ twice.wg.keys 0, k ≠ twice.cur → (twice.warpAt k).run = .running ∨ (twice.warpAt k).run.live = false)
    ∧ (twice.ctx.errTail - twice.ctx.errHead).toNat < twice.ctx.errn := by decide +kernel

/-! Translation and scheduling. -/

theorem wit_walk : (match demo.walk (demo.ctxAt 0) 0x400100 with | .leaf l => l.base | _ => 0) = 0x80000
    ∧ (demo.ctxAt 0).registered = true ∧ demo.tlbHit 0 0 0x400100 = none ∧ (match demo.walk (demo.ctxAt 0) 0x300000 with | .leaf _ => 1 | _ => 0) = 0
    ∧ (withWarp fun w => { w with stall := some .migrate }).warp.stall = some .migrate := by decide +kernel
/-- Translation commands of context 0 whose object is at 0x400 of core 0. -/
def xcmd (va count kind template : Nat) : XCmd := leBytes 8 va ++ leBytes 4 count ++ leBytes 4 0 ++ leBytes 2 kind ++ leBytes 2 0
  ++ leBytes 4 0x400 ++ leBytes 8 template
def posted (b : XCmd) : State := { demo with xlq := [b] }
/-- An INVAL of one page, a ZMAP of one page at 0x480000, one of a page that is mapped, and a command of a reserved kind. -/
theorem wit_translation : (xFields (xcmd 0x400000 1 0 0)).ok = true ∧ (xFields (xcmd 0x400000 1 0 0)).kind = 0
    ∧ (xFields (xcmd 0x480000 1 1 0x10000F)).ok = true ∧ (xFields (xcmd 0x480000 1 1 0x10000F)).kind = 1
    ∧ (posted (xcmd 0x480000 1 1 0x10000F)).zmapOk (xFields (xcmd 0x480000 1 1 0x10000F)) = true
    ∧ (posted (xcmd 0x400000 1 1 0x10000F)).zmapOk (xFields (xcmd 0x400000 1 1 0x10000F)) = false
    ∧ (xFields (xcmd 0 1 2 0)).ok = false ∧ (xFields (xcmd 0 1 2 0)).hasObject ∧ demo.inval = none ∧ demo.zmap = none
    ∧ demo.commands = [] ∧ demo.reds = [] ∧ demo.zmapTable (xFields (xcmd 0x480000 1 1 0x10000F)) = some leafTable := by
  refine ⟨?_, ?_, ?_, ?_, ?_, ?_, ?_, ⟨?_, ?_, ?_⟩, ?_, ?_, ?_, ?_, ?_⟩ <;> decide +kernel
/-- Two ready warps of slot 0, of which warp 1 was the last. -/
def ready2 : State := ((two.setWarpAt 0 { demo.warp with stint := none }).setWarpAt 1 { demo.warp with stint := none }).setCoreAt 0
  { slots := [(0, { last := some 1, k := 3 })] }
theorem wit_arbitrate : ready2.readyIn 0 0 = [0, 1] ∧ ready2.topIn 0 0 = [0, 1] ∧ ready2.readyIn 0 1 = []
    ∧ ∀ p ∈ ready2.placedWarps 0, p.2.slot = 0 → p.2.stint = none := by decide +kernel
/-- Two grids, of which the second has a workgroup to place. -/
def gridded : State := demo.setGridAt 5 { prio := 3, fp := { grid := 2, warps := 2, width := 32, vregs := 8, sregs := 8, loc := 2048 } }
theorem wit_place : (firstGrid (gridded.waiting 0)).map Prod.fst = some 5 ∧ gridded.resumable 5 = none
    ∧ (gridded.findCore 0 (gridded.gridAt 5).fp).map Prod.fst = some 0 := by decide +kernel
/-- A workgroup whose only warp has exited, with a bitmap and without. -/
def ended : State := withWarp fun w => { w with run := .exited, stint := none }
def ended2 : State := ended.setWg { ended.wg with fp := { ended.wg.fp with bitmap := 0x400200 } }
def ended3 : State := ended.setWg { ended.wg with fp := { ended.wg.fp with counter := 0x400200 } }
theorem wit_finish : ended.hasWg 0 = true ∧ (ended.wgAt 0).place = .resident ∧ ended.outstanding 0 = false
    ∧ (ended.wgAt 0).launchQ = [] ∧ (∀ k ∈ (ended.wgAt 0).keys 0, (ended.warpAt k).run = .exited)
    ∧ (ended.gridAt 1).killed = false ∧ (ended.wgAt 0).seq = 1 ∧ (ended.wgAt 0).bitVa = 0 ∧ (ended.wgAt 0).fp.counter = 0
    ∧ (ended.gridAt 1).finished + 1 = (ended.gridAt 1).fp.grid
    ∧ (ended2.wgAt 0).bitVa ≠ 0 ∧ ended2.signalTo 0 (ended2.wgAt 0).bitVa = .key 0x80200
    ∧ (ended3.wgAt 0).fp.counter ≠ 0 ∧ ended3.signalTo 0 0x400200 = .key 0x80200 ∧ ended3.linePoisoned 0x80200 = false := by
  decide +kernel
/-- A pool of 2 MiB and a workgroup whose warp waits at JOIN. -/
def joined : State := (withWarp fun w => { w with run := .join 0x400200, blkLen := 4, stint := none }).setCtxAt 0
  { demo.ctx with evp := 0x100000, evpsz := 0x200000 }
def draining : State := joined.setWg { joined.wg with place := .draining, area := some (0, 0x80000) }
theorem wit_evict : joined.evictable 0 = true ∧ joined.evictionDue 0 = true ∧ (joined.poolRange (joined.wgAt 0)).isSome = true
    ∧ (joined.gridAt 1).killed = false ∧ (draining.wgAt 0).place = .draining ∧ draining.outstanding 0 = false
    ∧ (draining.coreAt 0).latent = [] := by decide +kernel
def evicted : State := joined.setWg { joined.wg with place := .evicted, area := some (0, 0x80000), saved := [(3, 7)] }
def resumable : State := joined.setWg { joined.wg with place := .resumable, area := some (0, 0x80000), saved := [(3, 7)] }
theorem wit_resume : (evicted.wgAt 0).place = .evicted ∧ evicted.wakes (evicted.wgAt 0) (evicted.warpAt 0) = true
    ∧ (firstGrid (resumable.waiting 0)).map Prod.fst = some 1 ∧ (resumable.resumable 1).map Prod.fst = some 0
    ∧ resumable.resumable 1 = some (0, resumable.wgAt 0) ∧ (resumable.findCore 0 (resumable.wgAt 0).fp).isSome = true
    ∧ Tab.wf 0 (resumable.wgAt 0).saved = true ∧ (∀ p ∈ (resumable.wgAt 0).saved, p.1 < (resumable.wgAt 0).alloc) := by
  decide +kernel

/-! The fabric and management. -/

/-- Export entry 2: context 0, key 7, 4,096 bytes at 0x400000, arrivals at 0x400 of core 0, valid. -/
def exported : State := { demo with exportTable := Tab.putN 0 64 (leBytes 4 0 ++ leBytes 4 7 ++ leBytes 8 0x400000 ++ leBytes 8 4096
  ++ leBytes 2 0 ++ leBytes 4 0x400 ++ leBytes 1 1 ++ leBytes 1 0) [] }
theorem wit_ingress :
    let f := entryField exported.exportTable 64
    f 0 4 = 0 ∧ f 30 1 % 2 = 1 ∧ f 4 4 = 7 ∧ f 16 8 = 4096 ∧ f 24 2 = 0 ∧ f 26 4 = 0x400
      ∧ exported.translateUnits noCore 0 ⟨0x400010, 1, [.engWrite], 4⟩ 8 1 [] = .ok pageX ∧ (exported.ctxAt 0).replay = false
      ∧ isPeer (xkey pageX 0x400010) = false ∧ exported.portsFrozen = [] ∧ (exported.ctxAt 0).registered = true := by decide +kernel
theorem wit_unmapped : (twice.ctxAt 0).registered = true ∧ ((twice.ctxAt 0).errTail - (twice.ctxAt 0).errHead).toNat < (twice.ctxAt 0).errn
    ∧ entryField twice.exportTable 64 30 1 % 2 ≠ 1 := by decide +kernel
/-- A decoder that holds one record of one frame, of a context with an error ring. -/
def frozenUnit : State := (demo.setDieAt 0 { demo.dieAt 0 with decoders := [(0, { queue := [theRec] })], frozen := [0x2000] }).setCtxAt 0
  { demo.ctx with errn := 64, err := memKey 2 0x1000 }
theorem wit_engine_fault : isMaster 0x2000 = true ∧ isMaster 0x1003 = true ∧ unitKind 0x1003 = 1 ∧ unitKind 0x2000 ≠ 1
    ∧ demo.isFrozen (unitDie 0x2000) 0x2000 = false ∧ demo.heldWg 0x2000 = none
    ∧ (frozenUnit.setDieAt 0 { frozenUnit.dieAt 0 with frozen := [] }).heldWg 0x2000 = some 0 ∧ unitKind 0x2000 = 2
    ∧ frozenUnit.isFrozen 0 0x2000 = true ∧ (frozenUnit.decoderAt 0 0).active = none ∧ (frozenUnit.decoderAt 0 0).queue = [theRec]
    ∧ theRec.frames = 1 ∧ unitKind 0x5400 = 5 ∧ demo.frozen = false ∧ demo.booted = false ∧ demo.bootFailed = false := by
  decide +kernel

/-! The host. -/

theorem wit_registers : State.reset.hostDead = false ∧ (1 : Word).getLsbD 0 = true ∧ (0 : Word).getLsbD 0 = false ∧ ringSize 16
    ∧ State.reset.bar2win.toNat / 2 ^ 62 = 0 ∧ State.reset.bar2win.toNat % 2 ^ 52 + 0 + 8 ≤ tierLimit {} 0
    ∧ ∀ c, (State.reset.ctxAt c).replay = false :=
  ⟨rfl, by decide, by decide, ⟨4, by decide⟩, by decide, by decide, fun _ => rfl⟩
/-- Host queue 0 enabled, with this entry of 64 bytes at its head. -/
def hosted (b : List Byte) : State := ((demo.setHostqAt 0 { qsize := 16, qtail := 1, qctl := 1, ssize := 16, sbase := 0x1000, qceil := 47 }).writeMem
  (memKey 2 0) (padTo 64 b))
def head (kind : Nat) (rest : List Byte) : List Byte := leBytes 4 kind ++ leBytes 4 0 ++ rest
/-- The head entry's kind, context and one field. -/
def headIs (s : State) (kind i n v : Nat) : Bool :=
  match s.qEntry 0 with | some b => qf b 0 1 = kind && qf b 4 4 = 0 && qf b i n = v | none => false
theorem wit_host_entries : headIs (hosted (head 1 (leBytes 8 0x400100))) 1 8 8 0x400100 = true
    ∧ headIs (hosted (head 2 [])) 2 8 8 0 = true ∧ headIs (hosted (head 3 (leBytes 8 0x2000))) 3 8 8 0x2000 = true
    ∧ headIs (hosted (head 4 (leBytes 8 0x4000 ++ leBytes 8 544))) 4 16 8 544 = true ∧ headIs (hosted (head 5 [])) 5 8 8 0 = true
    ∧ headIs (hosted (head 6 (leBytes 8 1))) 6 8 8 1 = true ∧ headIs (hosted (head 7 (leBytes 8 0x4000))) 7 8 8 0x4000 = true
    ∧ headIs (hosted (head 8 (leBytes 8 0x4000 ++ leBytes 8 1 ++ leBytes 4 16))) 8 24 4 16 = true
    ∧ headIs (hosted (head 9 (leBytes 8 1))) 9 8 8 1 = true ∧ headIs (hosted (head 10 (leBytes 8 1))) 10 8 8 1 = true
    ∧ headIs (hosted (head 11 (leBytes 8 0x4000 ++ leBytes 8 1))) 11 16 8 1 = true
    ∧ headIs (hosted (head 12 (leBytes 8 5 ++ leBytes 8 1))) 12 16 8 1 = true ∧ headIs (hosted (head 13 [])) 13 8 8 0 = true := by
  decide +kernel
theorem wit_host_launch :
    let s := (hosted (head 1 (leBytes 8 0x400100))).writeMem 0x80100 ((launching 0).readMem 0x80100 64)
    (s.ctxAt 0).registered = true ∧ counterOf (s.launchCheck noCore 0 0x400100 47) = some 0 ∧ s.hostDead = false
      ∧ counterOf (s.launchCheck noCore 0 0x300000 47) = none := by decide +kernel
/-- The bits of an entry that are always zero: byte 19 of a peer entry, byte 31 of an export entry (R320). A live entry takes none. -/
theorem test_tables : let t := registerWrite 0xC0018 8 (-1) (registerWrite 0xA0010 8 (-1) demo)
    t.barRead 0xA0010 8 = 0xFFFFFFFF83FFFFFF ∧ t.barRead 0xC0018 8 = 0x00FFFFFFFFFFFFFF
      ∧ (registerWrite 0xA0010 4 (-1) t).peerTable = t.peerTable ∧ demo.hostDead = false
      ∧ (Tab.get (0 : Byte) (0xA0010 - 0xA0000 + 3) demo.peerTable).getLsbD 7 = false := by decide +kernel
/-- A descriptor of a context that has no grid. -/
def desc : List Byte := leBytes 8 0x8000 ++ zeros 16 ++ leBytes 8 0x400800 ++ leBytes 8 0x20000 ++ leBytes 4 16 ++ leBytes 4 0
  ++ leBytes 8 0x40000 ++ leBytes 8 1000 ++ leBytes 8 0 ++ leBytes 8 0 ++ leBytes 8 (2 ^ 63 + 0x1000) ++ leBytes 4 64 ++ leBytes 4 0 ++ zeros 160
theorem wit_desc : (descCtx desc {}).isSome = true ∧ (descCtx (zeros 256) {}).isNone = true := by decide +kernel
/-- A pre-emption of context 0 whose outcome has not been reported. -/
def preempted : State := (hosted []).setCtxAt 0 { demo.ctx with preempt := some { queue := 0, buf := 0x4000, size := 544 } }
theorem wit_preempt : (preempted.ctxAt 0).preempt = some { queue := 0, buf := 0x4000, size := 544 } ∧ preempted.hostDead = false
    ∧ preempted.statusRoom 0 1 = true ∧ (preempted.residents 0).map Prod.fst = [0] ∧ (demo.residents 1) = [] := by decide +kernel
theorem wit_kill : ((hosted []).gridAt 1).ctx = 0 ∧ ((hosted []).gridAt 1).live = true ∧ Tab.wf {} (hosted []).wgs = true
    ∧ locKey [0] 1 0x4000 = some 0x4000 := by decide +kernel
/-- A debugger, and a warp that it has stopped, with a stop whose event waits. -/
def debugged : State := ((hosted []).setCtxAt 0 { demo.ctx with debugger := some { ring := 0x4000, size := 16, claims := 2 ^ 0x28, waiting := [(0, event)] } }).setWarp
  { demo.warp with run := .halted none true, handler := true, tpc := 0x400000, texec := 3, stint := none }
def named0 : List Byte := head 11 (leBytes 8 0x4000 ++ leBytes 8 1 ++ leBytes 4 0)
theorem wit_debug : debugged.named 0 1 0 1 = [0] ∧ (debugged.warpAt 0).stopped = true ∧ debugged.stoppedWarp 0 (padTo 64 named0) = some 0
    ∧ ((debugged.warpAt 0).tpc).toNat % 4 = 0 ∧ canonical (debugged.warpAt 0).tpc = true ∧ (debugged.warpAt 0).trapQ = []
    ∧ (debugged.wgAt 0).haltBy = none ∧ ((debugged.ctxAt 0).dbgTail - (debugged.ctxAt 0).dbgHead).toNat < 16
    ∧ debugged.stoppedBy 0 (padTo 64 (head 10 (leBytes 8 1 ++ leBytes 4 0 ++ leBytes 4 0 ++ leBytes 8 1))) = [0]
    ∧ demo.stoppedWarp 0 (padTo 64 named0) = none ∧ 5 < debugged.wg.fp.sregs := by decide +kernel

/-! The machine. -/

/-- The machine after reset with the word of EXIT placed. -/
def placed : State := State.reset.withFetchWord 32 0x20
theorem wit_step : placed.agenda = [.warp 0] ∧ placed.frozen = false ∧ (placed.warpAt 0).run = .running ∧ (placed.warpAt 0).sleep = none
    ∧ (placed.warpAt 0).notice = none ∧ (placed.warpAt 0).stint = some 0 ∧ (placed.warpAt 0).trapQ = []
    ∧ (placed.wgAt 0).place = .resident ∧ (match ({ placed with cur := 0, iw := [] } : State).fetch 0x400000 with | .ok l => l | _ => []) = [0x20]
    ∧ (match ({ placed with cur := 0, iw := [] } : State).fetch 0x300000 with | .bad c _ _ => c | _ => 0) = 0x08
    ∧ wordRow (.sleepExpire 0) = false := by decide +kernel
theorem wit_round_trip : (Instr.add ⟨.eL, false, false, 1, .vec 0 .ident, .lit 100000, .zero⟩).wellFormed {} = true := by decide +kernel
theorem wit_canonical : State.reset.memWf ∧ State.reset.padWf := ⟨reset_memWf, reset_padWf⟩
theorem wit_frozen : ({ State.reset with frozen := true } : State).frozen = true := rfl


/-! Words of every instruction, written out from R25 and the encoding table of its chapter, and the C-form words of the
opcode table; S alternates. A step of another agent has no words. -/

def w (s u : Bool) (d : Reg) (a b c : Src) : Ops := ⟨.w, s, u, d, a, b, c⟩
def e0 (s u : Bool) (d : Reg) (a b c : Src) : Ops := ⟨.e0, s, u, d, a, b, c⟩
theorem test_decode_control :
    decode {} [0x00000015, 0x00000000] = .ok (.nop (w true false 0 .zero .zero .zero))
    ∧ decode {} [0x00000021, 0x00000000] = .ok (.exit (w false false 0 .zero .zero .zero))
    ∧ decode {} [0x00000035, 0x0000FFBE] = .ok (.jmp (w true false 0 (.imm (-2)) .zero .zero))
    ∧ decode {} [0x00451031, 0x0000FFBE] = .ok (.call (w false false 5 (.imm (-2)) .zero .zero))
    ∧ decode {} [0x00450045, 0x00000046] = .ok (.calli (w true false 5 (.sca 6) .zero .zero))
    ∧ decode {} [0x00001041, 0x00000046] = .ok (.ret (w false false 0 (.sca 6) .zero .zero))
    ∧ decode {} [0x00000055, 0xFFBE0046] = .ok (.br (w true false 0 (.sca 6) (.imm (-2)) .zero))
    ∧ decode {} [0x00001051, 0xFFBE0046] = .ok (.brAny (w false false 0 (.sca 6) (.imm (-2)) .zero))
    ∧ decode {} [0x00002055, 0xFFBE0046] = .ok (.brAll (w true false 0 (.sca 6) (.imm (-2)) .zero))
    ∧ decode {} [0x00003051, 0xFFBE0046] = .ok (.brNone (w false false 0 (.sca 6) (.imm (-2)) .zero))
    ∧ decode {} [0x05450065, 0x00000046] = .ok (.bar (w true false 5 (.sca 6) .zero .zero) 5)
    ∧ decode {} [0x00000071, 0xFFBE0046] = .ok (.await (w false false 0 (.sca 6) (.imm (-2)) .zero))
    ∧ decode {} [0x00001075, 0x00470046] = .ok (.bwait (w true false 0 (.sca 6) (.sca 7) .zero))
    ∧ decode {} [0x00000081, 0x00000046] = .ok (.launch (w false false 0 (.sca 6) .zero .zero))
    ∧ decode {} [0x00001085, 0x00000046] = .ok (.join (w true false 0 (.sca 6) .zero .zero))
    ∧ decode {} [0x00000091, 0x00000000] = .ok (.yield (w false false 0 .zero .zero .zero))
    ∧ decode {} [0x00001095, 0x0000FFBE] = .ok (.sleep (w true false 0 (.imm (-2)) .zero .zero)) := by decide +kernel
theorem test_decode_scalar :
    decode {} [0x00450101, 0x00470046] = .ok (.sadd (w false false 5 (.sca 6) (.sca 7) .zero))
    ∧ decode {} [0x00451105, 0x00470046] = .ok (.ssub (w true false 5 (.sca 6) (.sca 7) .zero))
    ∧ decode {} [0x00452101, 0x00470046] = .ok (.smul (w false false 5 (.sca 6) (.sca 7) .zero))
    ∧ decode {} [0x00453105, 0x00470046] = .ok (.smulh (w true false 5 (.sca 6) (.sca 7) .zero))
    ∧ decode {} [0x00454101, 0x00470046] = .ok (.smulhu (w false false 5 (.sca 6) (.sca 7) .zero))
    ∧ decode {} [0x00450115, 0x00470046] = .ok (.sand (w true false 5 (.sca 6) (.sca 7) .zero))
    ∧ decode {} [0x00451111, 0x00470046] = .ok (.sor (w false false 5 (.sca 6) (.sca 7) .zero))
    ∧ decode {} [0x00452115, 0x00470046] = .ok (.sxor (w true false 5 (.sca 6) (.sca 7) .zero))
    ∧ decode {} [0x00453111, 0x00470046] = .ok (.sandn (w false false 5 (.sca 6) (.sca 7) .zero))
    ∧ decode {} [0x00450125, 0x00470046] = .ok (.sshl (w true false 5 (.sca 6) (.sca 7) .zero))
    ∧ decode {} [0x00451121, 0x00470046] = .ok (.sshr (w false false 5 (.sca 6) (.sca 7) .zero))
    ∧ decode {} [0x00452125, 0x00470046] = .ok (.ssra (w true false 5 (.sca 6) (.sca 7) .zero))
    ∧ decode {} [0x00453121, 0x00470046] = .ok (.srot (w false false 5 (.sca 6) (.sca 7) .zero))
    ∧ decode {} [0x00450135, 0x00470046] = .ok (.smin (w true false 5 (.sca 6) (.sca 7) .zero))
    ∧ decode {} [0x00451131, 0x00470046] = .ok (.smax (w false false 5 (.sca 6) (.sca 7) .zero))
    ∧ decode {} [0x00452135, 0x00470046] = .ok (.sminu (w true false 5 (.sca 6) (.sca 7) .zero))
    ∧ decode {} [0x00453131, 0x00470046] = .ok (.smaxu (w false false 5 (.sca 6) (.sca 7) .zero))
    ∧ decode {} [0x00450145, 0x00470046] = .ok (.sdiv (w true false 5 (.sca 6) (.sca 7) .zero))
    ∧ decode {} [0x00451141, 0x00470046] = .ok (.sdivu (w false false 5 (.sca 6) (.sca 7) .zero))
    ∧ decode {} [0x00452145, 0x00470046] = .ok (.srem (w true false 5 (.sca 6) (.sca 7) .zero))
    ∧ decode {} [0x00453141, 0x00470046] = .ok (.sremu (w false false 5 (.sca 6) (.sca 7) .zero))
    ∧ decode {} [0x00450155, 0x00470046] = .ok (.scmpeq (w true false 5 (.sca 6) (.sca 7) .zero))
    ∧ decode {} [0x00451151, 0x00470046] = .ok (.scmpne (w false false 5 (.sca 6) (.sca 7) .zero))
    ∧ decode {} [0x00452155, 0x00470046] = .ok (.scmplt (w true false 5 (.sca 6) (.sca 7) .zero))
    ∧ decode {} [0x00453151, 0x00470046] = .ok (.scmpltu (w false false 5 (.sca 6) (.sca 7) .zero))
    ∧ decode {} [0x00454155, 0x00470046] = .ok (.scmple (w true false 5 (.sca 6) (.sca 7) .zero))
    ∧ decode {} [0x00455151, 0x00470046] = .ok (.scmpleu (w false false 5 (.sca 6) (.sca 7) .zero))
    ∧ decode {} [0x00450165, 0x0000FFBE] = .ok (.smov (w true false 5 (.imm (-2)) .zero .zero))
    ∧ decode {} [0x00452161, 0x0000FFBE] = .ok (.spop (w false false 5 (.imm (-2)) .zero .zero))
    ∧ decode {} [0x00453165, 0x0000FFBE] = .ok (.sclz (w true false 5 (.imm (-2)) .zero .zero))
    ∧ decode {} [0x00454161, 0x0000FFBE] = .ok (.sctz (w false false 5 (.imm (-2)) .zero .zero))
    ∧ decode {} [0x00451166, 0x00470046, 0x0000004C] = .ok (.ssel (e0 true false 5 (.sca 6) (.sca 7) (.sca 12)))
    ∧ decode {} [0x00450201, 0x00000046] = .ok (.maskIf (w false false 5 (.sca 6) .zero .zero))
    ∧ decode {} [0x00451205, 0x00000046] = .ok (.maskElse (w true false 5 (.sca 6) .zero .zero))
    ∧ decode {} [0x00453201, 0x00000046] = .ok (.maskLoop (w false false 5 (.sca 6) .zero .zero))
    ∧ decode {} [0x00452205, 0x00000000] = .ok (.maskEnd (w true false 5 .zero .zero .zero))
    ∧ decode {} [0x00450211, 0x00000008] = .ok (.ballot (w false false 5 (.vec 8 .ident) .zero .zero))
    ∧ decode {} [0x00041215, 0x00000046] = .ok (.mprefix (w true false 4 (.sca 6) .zero .zero))
    ∧ decode {} [0x00452211, 0x00000046] = .ok (.mfirst (w false false 5 (.sca 6) .zero .zero))
    ∧ decode {} [0x00450225, 0x00000000] = .ok (.exrd (w true false 5 .zero .zero .zero))
    ∧ decode {} [0x00001221, 0x00000046] = .ok (.exwr (w false false 0 (.sca 6) .zero .zero))
    ∧ decode {} [0x00002225, 0x00000046] = .ok (.exand (w true false 0 (.sca 6) .zero .zero))
    ∧ decode {} [0x00003221, 0x00000046] = .ok (.exandn (w false false 0 (.sca 6) .zero .zero)) := by decide +kernel
theorem test_decode_vector :
    decode {} [0x00040305, 0x000A0008] = .ok (.add (w true false 4 (.vec 8 .ident) (.vec 10 .ident) .zero))
    ∧ decode {} [0x00041301, 0x000A0008] = .ok (.sub (w false false 4 (.vec 8 .ident) (.vec 10 .ident) .zero))
    ∧ decode {} [0x00042305, 0x000A0008] = .ok (.mul (w true false 4 (.vec 8 .ident) (.vec 10 .ident) .zero))
    ∧ decode {} [0x00043301, 0x000A0008] = .ok (.mulh (w false false 4 (.vec 8 .ident) (.vec 10 .ident) .zero))
    ∧ decode {} [0x00044305, 0x000A0008] = .ok (.mulhu (w true false 4 (.vec 8 .ident) (.vec 10 .ident) .zero))
    ∧ decode {} [0x00046301, 0x000A0008] = .ok (.adds (w false false 4 (.vec 8 .ident) (.vec 10 .ident) .zero))
    ∧ decode {} [0x00047305, 0x000A0008] = .ok (.subs (w true false 4 (.vec 8 .ident) (.vec 10 .ident) .zero))
    ∧ decode {} [0x00048301, 0x000A0008] = .ok (.addus (w false false 4 (.vec 8 .ident) (.vec 10 .ident) .zero))
    ∧ decode {} [0x00049305, 0x000A0008] = .ok (.subus (w true false 4 (.vec 8 .ident) (.vec 10 .ident) .zero))
    ∧ decode {} [0x00040311, 0x000A0008] = .ok (.and (w false false 4 (.vec 8 .ident) (.vec 10 .ident) .zero))
    ∧ decode {} [0x00041315, 0x000A0008] = .ok (.or (w true false 4 (.vec 8 .ident) (.vec 10 .ident) .zero))
    ∧ decode {} [0x00042311, 0x000A0008] = .ok (.xor (w false false 4 (.vec 8 .ident) (.vec 10 .ident) .zero))
    ∧ decode {} [0x00043315, 0x000A0008] = .ok (.andn (w true false 4 (.vec 8 .ident) (.vec 10 .ident) .zero))
    ∧ decode {} [0x00040321, 0x000A0008] = .ok (.shl (w false false 4 (.vec 8 .ident) (.vec 10 .ident) .zero))
    ∧ decode {} [0x00041325, 0x000A0008] = .ok (.shr (w true false 4 (.vec 8 .ident) (.vec 10 .ident) .zero))
    ∧ decode {} [0x00042321, 0x000A0008] = .ok (.sra (w false false 4 (.vec 8 .ident) (.vec 10 .ident) .zero))
    ∧ decode {} [0x00043325, 0x000A0008] = .ok (.rot (w true false 4 (.vec 8 .ident) (.vec 10 .ident) .zero))
    ∧ decode {} [0x00040331, 0x000A0008] = .ok (.min (w false false 4 (.vec 8 .ident) (.vec 10 .ident) .zero))
    ∧ decode {} [0x00041335, 0x000A0008] = .ok (.max (w true false 4 (.vec 8 .ident) (.vec 10 .ident) .zero))
    ∧ decode {} [0x00042331, 0x000A0008] = .ok (.minu (w false false 4 (.vec 8 .ident) (.vec 10 .ident) .zero))
    ∧ decode {} [0x00043335, 0x000A0008] = .ok (.maxu (w true false 4 (.vec 8 .ident) (.vec 10 .ident) .zero))
    ∧ decode {} [0x00040431, 0x000A0008] = .ok (.div (w false false 4 (.vec 8 .ident) (.vec 10 .ident) .zero))
    ∧ decode {} [0x00041435, 0x000A0008] = .ok (.divu (w true false 4 (.vec 8 .ident) (.vec 10 .ident) .zero))
    ∧ decode {} [0x00042431, 0x000A0008] = .ok (.rem (w false false 4 (.vec 8 .ident) (.vec 10 .ident) .zero))
    ∧ decode {} [0x00043435, 0x000A0008] = .ok (.remu (w true false 4 (.vec 8 .ident) (.vec 10 .ident) .zero))
    ∧ decode {} [0x00040421, 0x000A0008] = .ok (.add64 (w false false 4 (.vec 8 .ident) (.vec 10 .ident) .zero))
    ∧ decode {} [0x00041425, 0x000A0008] = .ok (.sub64 (w true false 4 (.vec 8 .ident) (.vec 10 .ident) .zero))
    ∧ decode {} [0x00042421, 0x000A0008] = .ok (.shl64 (w false false 4 (.vec 8 .ident) (.vec 10 .ident) .zero))
    ∧ decode {} [0x00043425, 0x000A0008] = .ok (.shr64 (w true false 4 (.vec 8 .ident) (.vec 10 .ident) .zero))
    ∧ decode {} [0x00044331, 0x00000008] = .ok (.abs (w false false 4 (.vec 8 .ident) .zero .zero))
    ∧ decode {} [0x00045335, 0x00000008] = .ok (.neg (w true false 4 (.vec 8 .ident) .zero .zero))
    ∧ decode {} [0x00040351, 0x00000008] = .ok (.mov (w false false 4 (.vec 8 .ident) .zero .zero))
    ∧ decode {} [0x00040365, 0x00000008] = .ok (.popc (w true false 4 (.vec 8 .ident) .zero .zero))
    ∧ decode {} [0x00041361, 0x00000008] = .ok (.clz (w false false 4 (.vec 8 .ident) .zero .zero))
    ∧ decode {} [0x00042365, 0x00000008] = .ok (.ctz (w true false 4 (.vec 8 .ident) .zero .zero))
    ∧ decode {} [0x00045302, 0x000A0008, 0x0000000E] = .ok (.mad (e0 false false 4 (.vec 8 .ident) (.vec 10 .ident) (.vec 14 .ident)))
    ∧ decode {} [0x00041356, 0x000A0008, 0x0000004C] = .ok (.sel (e0 true false 4 (.vec 8 .ident) (.vec 10 .ident) (.sca 12)))
    ∧ decode {} [0x00450341, 0x000A0008] = .ok (.cmpeq (w false false 5 (.vec 8 .ident) (.vec 10 .ident) .zero))
    ∧ decode {} [0x00451345, 0x000A0008] = .ok (.cmpne (w true false 5 (.vec 8 .ident) (.vec 10 .ident) .zero))
    ∧ decode {} [0x00452341, 0x000A0008] = .ok (.cmplt (w false false 5 (.vec 8 .ident) (.vec 10 .ident) .zero))
    ∧ decode {} [0x00453345, 0x000A0008] = .ok (.cmpltu (w true false 5 (.vec 8 .ident) (.vec 10 .ident) .zero))
    ∧ decode {} [0x00454341, 0x000A0008] = .ok (.cmple (w false false 5 (.vec 8 .ident) (.vec 10 .ident) .zero))
    ∧ decode {} [0x00455345, 0x000A0008] = .ok (.cmpleu (w true false 5 (.vec 8 .ident) (.vec 10 .ident) .zero))
    ∧ decode {} [0x00040401, 0x00000000] = .ok (.vidx (w false false 4 .zero .zero .zero))
    ∧ decode {} [0x00041405, 0x00470046] = .ok (.vaff (w true false 4 (.sca 6) (.sca 7) .zero))
    ∧ decode {} [0x00450411, 0x00000008] = .ok (.vtag (w false false 5 (.vec 8 .ident) .zero .zero)) := by decide +kernel
theorem test_decode_float :
    decode {} [0x01040505, 0x000A0008] = .ok (.fadd (w true false 4 (.vec 8 .ident) (.vec 10 .ident) .zero) .f16x2)
    ∧ decode {} [0x01041501, 0x000A0008] = .ok (.fsub (w false false 4 (.vec 8 .ident) (.vec 10 .ident) .zero) .f16x2)
    ∧ decode {} [0x01042505, 0x000A0008] = .ok (.fmul (w true false 4 (.vec 8 .ident) (.vec 10 .ident) .zero) .f16x2)
    ∧ decode {} [0x01040511, 0x000A0008] = .ok (.fmin (w false false 4 (.vec 8 .ident) (.vec 10 .ident) .zero) .f16x2)
    ∧ decode {} [0x01041515, 0x000A0008] = .ok (.fmax (w true false 4 (.vec 8 .ident) (.vec 10 .ident) .zero) .f16x2)
    ∧ decode {} [0x01044511, 0x000A0008] = .ok (.fcopys (w false false 4 (.vec 8 .ident) (.vec 10 .ident) .zero) .f16x2)
    ∧ decode {} [0x02043506, 0x000A0008, 0x0000000E] = .ok (.fma (e0 true false 4 (.vec 8 .ident) (.vec 10 .ident) (.vec 14 .ident)) .bf16x2)
    ∧ decode {} [0x02044502, 0x000A0008, 0x0000000E] = .ok (.fms (e0 false false 4 (.vec 8 .ident) (.vec 10 .ident) (.vec 14 .ident)) .bf16x2)
    ∧ decode {} [0x02042515, 0x00000008] = .ok (.fabs (w true false 4 (.vec 8 .ident) .zero .zero) .bf16x2)
    ∧ decode {} [0x02043511, 0x00000008] = .ok (.fneg (w false false 4 (.vec 8 .ident) .zero .zero) .bf16x2)
    ∧ decode {} [0x02040605, 0x00000008] = .ok (.frnd (w true false 4 (.vec 8 .ident) .zero .zero) .bf16x2)
    ∧ decode {} [0x02041601, 0x00000008] = .ok (.ffloor (w false false 4 (.vec 8 .ident) .zero .zero) .bf16x2)
    ∧ decode {} [0x02042605, 0x00000008] = .ok (.fceil (w true false 4 (.vec 8 .ident) .zero .zero) .bf16x2)
    ∧ decode {} [0x02043601, 0x00000008] = .ok (.ftrunc (w false false 4 (.vec 8 .ident) .zero .zero) .bf16x2)
    ∧ decode {} [0x02040805, 0x00000008] = .ok (.exp2 (w true false 4 (.vec 8 .ident) .zero .zero) .bf16x2)
    ∧ decode {} [0x02041801, 0x00000008] = .ok (.log2 (w false false 4 (.vec 8 .ident) .zero .zero) .bf16x2)
    ∧ decode {} [0x02042805, 0x00000008] = .ok (.sinpi (w true false 4 (.vec 8 .ident) .zero .zero) .bf16x2)
    ∧ decode {} [0x02043801, 0x00000008] = .ok (.cospi (w false false 4 (.vec 8 .ident) .zero .zero) .bf16x2)
    ∧ decode {} [0x02044805, 0x00000008] = .ok (.rsq (w true false 4 (.vec 8 .ident) .zero .zero) .bf16x2)
    ∧ decode {} [0x02045801, 0x00000008] = .ok (.rcp (w false false 4 (.vec 8 .ident) .zero .zero) .bf16x2)
    ∧ decode {} [0x02046805, 0x00000008] = .ok (.sqrt (w true false 4 (.vec 8 .ident) .zero .zero) .bf16x2)
    ∧ decode {} [0x02047801, 0x00000008] = .ok (.tanh (w false false 4 (.vec 8 .ident) .zero .zero) .bf16x2)
    ∧ decode {} [0x02048805, 0x00000008] = .ok (.sigm (w true false 4 (.vec 8 .ident) .zero .zero) .bf16x2)
    ∧ decode {} [0x00450521, 0x000A0008] = .ok (.fcmpeq (w false false 5 (.vec 8 .ident) (.vec 10 .ident) .zero))
    ∧ decode {} [0x00451525, 0x000A0008] = .ok (.fcmpne (w true false 5 (.vec 8 .ident) (.vec 10 .ident) .zero))
    ∧ decode {} [0x00452521, 0x000A0008] = .ok (.fcmplt (w false false 5 (.vec 8 .ident) (.vec 10 .ident) .zero))
    ∧ decode {} [0x00453525, 0x000A0008] = .ok (.fcmple (w true false 5 (.vec 8 .ident) (.vec 10 .ident) .zero))
    ∧ decode {} [0x00454521, 0x000A0008] = .ok (.fcmpun (w false false 5 (.vec 8 .ident) (.vec 10 .ident) .zero))
    ∧ decode {} [0x00040615, 0x00000008] = .ok (.fclass (w true false 4 (.vec 8 .ident) .zero .zero))
    ∧ decode {} [0x50040702, 0x00000008, 0x000B0000] = .ok (.cvt (e0 false false 4 (.vec 8 .ident) .zero .zero) .e4m3 .f32 (some .rup) true)
    ∧ decode {} [0x0F040715, 0x00000008] = .ok (.bfpk (w true false 4 (.vec 8 .ident) .zero .zero) .m16)
    ∧ decode {} [0x02041711, 0x00000008] = .ok (.bfpu (w false false 4 (.vec 8 .ident) .zero .zero) .m3)
    ∧ decode {} [0x11040815, 0x00000008] = .ok (.act (w true false 4 (.vec 8 .ident) .zero .zero) true .f16x2)
    ∧ decode {} [0x10001811, 0x00000046] = .ok (.actld (w false false 0 (.sca 6) .zero .zero) true) := by decide +kernel
theorem test_decode_cross :
    decode {} [0x00040905, 0x000A0008] = .ok (.vperm (w true false 4 (.vec 8 .ident) (.vec 10 .ident) .zero))
    ∧ decode {} [0x13041901, 0x00000008] = .ok (.vscan (w false false 4 (.vec 8 .ident) .zero .zero) .fadd true)
    ∧ decode {} [0x11040915, 0x00000008] = .ok (.vsort (w true false 4 (.vec 8 .ident) .zero .zero) .u32 true)
    ∧ decode {} [0x02041911, 0x000A0008] = .ok (.vsortkv (w false false 4 (.vec 8 .ident) (.vec 10 .ident) .zero) .f32 false)
    ∧ decode {} [0x01452915, 0x00000008] = .ok (.vargmax (w true false 5 (.vec 8 .ident) .zero .zero) .u32) := by decide +kernel
theorem test_decode_memory :
    decode {} [0xC5040A02, 0x000A0008, 0x000DFFBE] = .ok (.ld (e0 false false 4 (.vec 8 .ident) (.vec 10 .ident) (.imm (-2))) ⟨true, 2⟩ .s16 ⟨.acq, .device⟩)
    ∧ decode {} [0xC4041A06, 0x000A0008, 0x000A004C] = .ok (.st (e0 true false 4 (.vec 8 .ident) (.vec 10 .ident) (.sca 12)) ⟨true, 2⟩ .u16 ⟨.rel, .die⟩)
    ∧ decode {} [0x06450A11, 0xFFBE0046] = .ok (.lds (w false false 5 (.sca 6) (.imm (-2)) .zero) ⟨false, 0⟩ .s32 ⟨.relaxed, .warp⟩)
    ∧ decode {} [0x01451A16, 0xFFBE0046, 0x0012004C] = .ok (.sts (e0 true false 5 (.sca 6) (.imm (-2)) (.sca 12)) ⟨false, 0⟩ .w64 ⟨.rel, .system⟩)
    ∧ decode {} [0xC2040A21, 0x000A0008] = .ok (.ldu (w false false 4 (.vec 8 .ident) (.vec 10 .ident) .zero) ⟨true, 2⟩ .u8 ⟨.relaxed, .warp⟩)
    ∧ decode {} [0xC3041A25, 0x000A0008] = .ok (.ldf (w true false 4 (.vec 8 .ident) (.vec 10 .ident) .zero) ⟨true, 2⟩ .s8 ⟨.relaxed, .warp⟩)
    ∧ decode {} [0xC0002A21, 0x000A0008] = .ok (.pref (w false false 0 (.vec 8 .ident) (.vec 10 .ident) .zero) ⟨true, 2⟩)
    ∧ decode {} [0xD9040A36, 0x000A0008, 0x0007000E] = .ok (.atom (e0 true false 4 (.vec 8 .ident) (.vec 10 .ident) (.vec 14 .ident)) ⟨true, 2⟩ .cas true ⟨.ar, .group⟩)
    ∧ decode {} [0xCC001A32, 0x000A0008, 0x000E000E] = .ok (.red (e0 false false 0 (.vec 8 .ident) (.vec 10 .ident) (.vec 14 .ident)) ⟨true, 2⟩ .fmax false ⟨.rel, .device⟩)
    ∧ decode {} [0x0E000A45, 0x00000000] = .ok (.fence (w true false 0 .zero .zero .zero) .rel .device) := by decide +kernel
theorem test_decode_local :
    decode {} [0x04040B02, 0x00000008, 0x0000004C] = .ok (.ldl (e0 false false 4 (.vec 8 .ident) .zero (.sca 12)) .u16)
    ∧ decode {} [0x02001B05, 0x000A0008] = .ok (.stl (w true false 0 (.vec 8 .ident) (.vec 10 .ident) .zero) .u8)
    ∧ decode {} [0xC9042B02, 0x000A0008, 0x0000FFBE] = .ok (.atoml (e0 false false 4 (.vec 8 .ident) (.vec 10 .ident) (.imm (-2))) .cas .ar)
    ∧ decode {} [0x00000B16, 0x000A0008, 0x0000004C] = .ok (.bnkAdd (e0 true false 0 (.vec 8 .ident) (.vec 10 .ident) (.sca 12)) false)
    ∧ decode {} [0x81000B11, 0x000A0046] = .ok (.bnkMax (w false false 0 (.sca 6) (.vec 10 .ident) .zero) true)
    ∧ decode {} [0x82000B15, 0x000A0046] = .ok (.bnkMin (w true false 0 (.sca 6) (.vec 10 .ident) .zero) true)
    ∧ decode {} [0x90001B11, 0x000A0046] = .ok (.bnkFadd (w false false 0 (.sca 6) (.vec 10 .ident) .zero) true true)
    ∧ decode {} [0x90002B15, 0x000A0046] = .ok (.bnkFmax (w true false 0 (.sca 6) (.vec 10 .ident) .zero) true true)
    ∧ decode {} [0x11002B11, 0x000A0008] = .ok (.bnkFmin (w false false 0 (.vec 8 .ident) (.vec 10 .ident) .zero) false true)
    ∧ decode {} [0x00003B15, 0x000A0008] = .ok (.bnkFmul (w true false 0 (.vec 8 .ident) (.vec 10 .ident) .zero) false false)
    ∧ decode {} [0x90004B12, 0x000A0046, 0x0000000E] = .ok (.bnkFma (e0 false false 0 (.sca 6) (.vec 10 .ident) (.vec 14 .ident)) true true)
    ∧ decode {} [0x00005B15, 0x000A0008] = .ok (.bnkXms (w true false 0 (.vec 8 .ident) (.vec 10 .ident) .zero) false)
    ∧ decode {} [0x00046B12, 0x000A0008, 0x0000000E] = .ok (.bnkCas (e0 false false 4 (.vec 8 .ident) (.vec 10 .ident) (.vec 14 .ident)) false)
    ∧ decode {} [0x80047B15, 0x000A0046] = .ok (.bnkXchg (w true false 4 (.sca 6) (.vec 10 .ident) .zero) true)
    ∧ decode {} [0x80008B11, 0x000A0046] = .ok (.bnkFill (w false false 0 (.sca 6) (.vec 10 .ident) .zero) true)
    ∧ decode {} [0x37450B2E, 0x000A0008, 0x1234004C] = .ok (.bulk (e0 true true 5 (.vec 8 .ident) (.vec 10 .ident) (.sca 12)) .fma true true 0x1234)
    ∧ decode {} [0x03001B2A, 0x000A0008, 0x1234000E] = .ok (.bcpy (e0 false true 0 (.vec 8 .ident) (.vec 10 .ident) (.vec 14 .ident)) 3 0x1234)
    ∧ decode {} [0x00040B35, 0x00000008] = .ok (.tagl (w true false 4 (.vec 8 .ident) .zero .zero))
    ∧ decode {} [0x00041B31, 0x000A0008] = .ok (.tagi (w false false 4 (.vec 8 .ident) (.vec 10 .ident) .zero))
    ∧ decode {} [0x00042B35, 0x00000008] = .ok (.tagd (w true false 4 (.vec 8 .ident) .zero .zero)) := by decide +kernel
theorem test_decode_copy :
    decode {} [0x62450C02, 0x00470046, 0x0000004C] = .ok (.cpy (e0 false false 5 (.sca 6) (.sca 7) (.sca 12)) 6 true false)
    ∧ decode {} [0xD9031C06, 0xFFBE0046, 0x48D1004C] = .ok (.cpyt (e0 true false 3 (.sca 6) (.imm (-2)) (.sca 12)) true 5 9 0x1234 false true)
    ∧ decode {} [0x50002C01, 0xFFBE0046] = .ok (.gath (w false false 0 (.sca 6) (.imm (-2)) .zero) 5)
    ∧ decode {} [0x50003C05, 0xFFBE0046] = .ok (.scat (w true false 0 (.sca 6) (.imm (-2)) .zero) 5)
    ∧ decode {} [0x50004C01, 0xFFBE0046] = .ok (.scatRed (w false false 0 (.sca 6) (.imm (-2)) .zero) 5)
    ∧ decode {} [0xB0005C05, 0xFFBE0046] = .ok (.qfence (w true false 0 (.sca 6) (.imm (-2)) .zero) true 3)
    ∧ decode {} [0x00000C11, 0xFFBE0046] = .ok (.arvInit (w false false 0 (.sca 6) (.imm (-2)) .zero))
    ∧ decode {} [0x05001C15, 0xFFBE0046] = .ok (.arvAdd (w true false 0 (.sca 6) (.imm (-2)) .zero) 5)
    ∧ decode {} [0x00452C11, 0x00470046] = .ok (.arvExp (w false false 5 (.sca 6) (.sca 7) .zero))
    ∧ decode {} [0x00450C25, 0xFFBE0046] = .ok (.decSub (w true false 5 (.sca 6) (.imm (-2)) .zero))
    ∧ decode {} [0x00451C21, 0x0000FFBE] = .ok (.decStat (w false false 5 (.imm (-2)) .zero .zero)) := by decide +kernel
theorem test_decode_matrix :
    decode {} [0x1F030D05, 0x00470046] = .ok (.tdset (w true false 3 (.sca 6) (.sca 7) .zero) true .m16)
    ∧ decode {} [0x00451D01, 0x00000009] = .ok (.tdget (w false false 5 (.vec 9 .ident) .zero .zero))
    ∧ decode {} [0x00002D05, 0x00000009] = .ok (.tfree (w true false 0 (.vec 9 .ident) .zero .zero))
    ∧ decode {} [0x00030D11, 0x000B0009] = .ok (.mma (w false false 3 (.vec 9 .ident) (.vec 11 .ident) .zero))
    ∧ decode {} [0x00031D15, 0x000B0009] = .ok (.mmaSp (w true false 3 (.vec 9 .ident) (.vec 11 .ident) .zero))
    ∧ decode {} [0x00030D21, 0x00000000] = .ok (.accz (w false false 3 .zero .zero .zero))
    ∧ decode {} [0x00030D35, 0x00000046] = .ok (.accl (w true false 3 (.sca 6) .zero .zero))
    ∧ decode {} [0x00041D31, 0x000A0009] = .ok (.accr (w false false 4 (.vec 9 .ident) (.vec 10 .ident) .zero) 0)
    ∧ decode {} [0x01032D36, 0xFFBE0009, 0x0000000D] = .ok (.accd (e0 true false 3 (.vec 9 .ident) (.imm (-2)) (.vec 13 .ident)) true) := by decide +kernel
theorem test_decode_sets :
    decode {} [0x00040E01, 0x000A0046] = .ok (.setIns (w false false 4 (.sca 6) (.vec 10 .ident) .zero))
    ∧ decode {} [0x00041E05, 0x000A0046] = .ok (.setDel (w true false 4 (.sca 6) (.vec 10 .ident) .zero))
    ∧ decode {} [0x00042E01, 0x000A0046] = .ok (.setTest (w false false 4 (.sca 6) (.vec 10 .ident) .zero))
    ∧ decode {} [0x00040E15, 0x000A0046] = .ok (.setRank (w true false 4 (.sca 6) (.vec 10 .ident) .zero))
    ∧ decode {} [0x00041E11, 0x000A0046] = .ok (.setSel (w false false 4 (.sca 6) (.vec 10 .ident) .zero))
    ∧ decode {} [0x00042E15, 0x000A0046] = .ok (.setNext (w true false 4 (.sca 6) (.vec 10 .ident) .zero))
    ∧ decode {} [0x01043E01, 0x00000046] = .ok (.setCard (w false false 4 (.sca 6) .zero .zero) true)
    ∧ decode {} [0x00450E26, 0x00470046, 0x0000004C] = .ok (.setUnion (e0 true false 5 (.sca 6) (.sca 7) (.sca 12)))
    ∧ decode {} [0x00451E22, 0x00470046, 0x0000004C] = .ok (.setInter (e0 false false 5 (.sca 6) (.sca 7) (.sca 12)))
    ∧ decode {} [0x00452E26, 0x00470046, 0x0000004C] = .ok (.setDiff (e0 true false 5 (.sca 6) (.sca 7) (.sca 12)))
    ∧ decode {} [0x00454E22, 0x00000046, 0x0000FFBE] = .ok (.setCopy (e0 false false 5 (.sca 6) .zero (.imm (-2))))
    ∧ decode {} [0x02453E26, 0x00470046, 0x0000004C] = .ok (.setXcard (e0 true false 5 (.sca 6) (.sca 7) (.sca 12)) .diff)
    ∧ decode {} [0x01455E22, 0xFFBE0046, 0x0000004C] = .ok (.setImport (e0 false false 5 (.sca 6) (.imm (-2)) (.sca 12)) true)
    ∧ decode {} [0x00456E26, 0xFFBE0046, 0x0000004C] = .ok (.setExport (e0 true false 5 (.sca 6) (.imm (-2)) (.sca 12)))
    ∧ decode {} [0x01450E31, 0xFFBE0046] = .ok (.setNew (w false false 5 (.sca 6) (.imm (-2)) .zero) true)
    ∧ decode {} [0x00001E35, 0x00000046] = .ok (.setFree (w true false 0 (.sca 6) .zero .zero))
    ∧ decode {} [0x00002E31, 0x00000046] = .ok (.setClear (w false false 0 (.sca 6) .zero .zero))
    ∧ decode {} [0x01453E35, 0x00000046] = .ok (.setPin (w true false 5 (.sca 6) .zero .zero) true)
    ∧ decode {} [0x00454E31, 0xFFBE0046] = .ok (.setRep (w false false 5 (.sca 6) (.imm (-2)) .zero))
    ∧ decode {} [0x00450E45, 0xFFBE0046] = .ok (.setCost (w true false 5 (.sca 6) (.imm (-2)) .zero))
    ∧ decode {} [0x82451E42, 0x00470046, 0x0000004C] = .ok (.setEst (e0 false false 5 (.sca 6) (.sca 7) (.sca 12)) .clk .diff) := by decide +kernel
theorem test_decode_system :
    decode {} [0x00000F85, 0x0000FFBE] = .ok (.trap (w true false 0 (.imm (-2)) .zero .zero))
    ∧ decode {} [0x00001F81, 0x00000046] = .ok (.bkpt (w false false 0 (.sca 6) .zero .zero))
    ∧ decode { handler := true } [0x00002F85, 0x00000000] = .ok (.rett (w true false 0 .zero .zero .zero))
    ∧ decode { handler := true } [0x01450F91, 0x00000046] = .ok (.movfa (w false false 5 (.sca 6) .zero .zero) true)
    ∧ decode { handler := true } [0x01001F95, 0x00470046] = .ok (.movta (w true false 0 (.sca 6) (.sca 7) .zero) true)
    ∧ decode {} [0x06450FA1, 0x00000000] = .ok (.sysr (w false false 5 .zero .zero .zero) .cerr)
    ∧ decode { handler := true } [0x04001FA5, 0x00000046] = .ok (.sysw (w true false 0 (.sca 6) .zero .zero) .texec)
    ∧ decode {} [0x00000FB1, 0x00000000] = .ok (.icinv (w false false 0 .zero .zero .zero)) := by decide +kernel
theorem test_decode_c1 :
    decode {} [0x00000014] = .ok (.nopC ⟨true, false, 0, 0, 0⟩)
    ∧ decode {} [0x00000020] = .ok (.exitC ⟨false, false, 0, 0, 0⟩)
    ∧ decode {} [0x00810044] = .ok (.calliC ⟨true, false, 4, 8, 0⟩)
    ∧ decode {} [0x00801040] = .ok (.retC ⟨false, false, 0, 8, 0⟩)
    ∧ decode {} [0x00000094] = .ok (.yieldC ⟨true, false, 0, 0, 0⟩)
    ∧ decode {} [0x00801090] = .ok (.sleepC ⟨false, false, 0, 8, 0⟩)
    ∧ decode {} [0x28810104] = .ok (.saddC ⟨true, false, 4, 8, 10⟩)
    ∧ decode {} [0x28811100] = .ok (.ssubC ⟨false, false, 4, 8, 10⟩)
    ∧ decode {} [0x28812104] = .ok (.smulC ⟨true, false, 4, 8, 10⟩)
    ∧ decode {} [0x28813100] = .ok (.smulhC ⟨false, false, 4, 8, 10⟩)
    ∧ decode {} [0x28810114] = .ok (.sandC ⟨true, false, 4, 8, 10⟩)
    ∧ decode {} [0x28811110] = .ok (.sorC ⟨false, false, 4, 8, 10⟩)
    ∧ decode {} [0x28812114] = .ok (.sxorC ⟨true, false, 4, 8, 10⟩)
    ∧ decode {} [0x28813110] = .ok (.sandnC ⟨false, false, 4, 8, 10⟩)
    ∧ decode {} [0x28810124] = .ok (.sshlC ⟨true, false, 4, 8, 10⟩)
    ∧ decode {} [0x28811120] = .ok (.sshrC ⟨false, false, 4, 8, 10⟩)
    ∧ decode {} [0x28812124] = .ok (.ssraC ⟨true, false, 4, 8, 10⟩)
    ∧ decode {} [0x28813120] = .ok (.srotC ⟨false, false, 4, 8, 10⟩)
    ∧ decode {} [0x28810134] = .ok (.sminC ⟨true, false, 4, 8, 10⟩)
    ∧ decode {} [0x28811130] = .ok (.smaxC ⟨false, false, 4, 8, 10⟩)
    ∧ decode {} [0x28812134] = .ok (.sminuC ⟨true, false, 4, 8, 10⟩)
    ∧ decode {} [0x28813130] = .ok (.smaxuC ⟨false, false, 4, 8, 10⟩)
    ∧ decode {} [0x28810144] = .ok (.sdivC ⟨true, false, 4, 8, 10⟩)
    ∧ decode {} [0x28811140] = .ok (.sdivuC ⟨false, false, 4, 8, 10⟩)
    ∧ decode {} [0x28812144] = .ok (.sremC ⟨true, false, 4, 8, 10⟩)
    ∧ decode {} [0x28813140] = .ok (.sremuC ⟨false, false, 4, 8, 10⟩)
    ∧ decode {} [0x28810154] = .ok (.scmpeqC ⟨true, false, 4, 8, 10⟩)
    ∧ decode {} [0x28811150] = .ok (.scmpneC ⟨false, false, 4, 8, 10⟩)
    ∧ decode {} [0x28812154] = .ok (.scmpltC ⟨true, false, 4, 8, 10⟩)
    ∧ decode {} [0x28813150] = .ok (.scmpltuC ⟨false, false, 4, 8, 10⟩)
    ∧ decode {} [0x00810164] = .ok (.smovC ⟨true, false, 4, 8, 0⟩)
    ∧ decode {} [0x00812160] = .ok (.spopC ⟨false, false, 4, 8, 0⟩)
    ∧ decode {} [0x00813164] = .ok (.sclzC ⟨true, false, 4, 8, 0⟩)
    ∧ decode {} [0x00810200] = .ok (.maskIfC ⟨false, false, 4, 8, 0⟩)
    ∧ decode {} [0x00811204] = .ok (.maskElseC ⟨true, false, 4, 8, 0⟩)
    ∧ decode {} [0x00012200] = .ok (.maskEndC ⟨false, false, 4, 0, 0⟩) := by decide +kernel
theorem test_decode_c2 :
    decode {} [0x00813204] = .ok (.maskLoopC ⟨true, false, 4, 8, 0⟩)
    ∧ decode {} [0x00010220] = .ok (.exrdC ⟨false, false, 4, 0, 0⟩)
    ∧ decode {} [0x00801224] = .ok (.exwrC ⟨true, false, 0, 8, 0⟩)
    ∧ decode {} [0x00802220] = .ok (.exandC ⟨false, false, 0, 8, 0⟩)
    ∧ decode {} [0x00803224] = .ok (.exandnC ⟨true, false, 0, 8, 0⟩)
    ∧ decode {} [0x28810300] = .ok (.addC ⟨false, false, 4, 8, 10⟩)
    ∧ decode {} [0x28811304] = .ok (.subC ⟨true, false, 4, 8, 10⟩)
    ∧ decode {} [0x28812300] = .ok (.mulC ⟨false, false, 4, 8, 10⟩)
    ∧ decode {} [0x28813304] = .ok (.mulhC ⟨true, false, 4, 8, 10⟩)
    ∧ decode {} [0x28810310] = .ok (.andC ⟨false, false, 4, 8, 10⟩)
    ∧ decode {} [0x28811314] = .ok (.orC ⟨true, false, 4, 8, 10⟩)
    ∧ decode {} [0x28812310] = .ok (.xorC ⟨false, false, 4, 8, 10⟩)
    ∧ decode {} [0x28813314] = .ok (.andnC ⟨true, false, 4, 8, 10⟩)
    ∧ decode {} [0x28810320] = .ok (.shlC ⟨false, false, 4, 8, 10⟩)
    ∧ decode {} [0x28811324] = .ok (.shrC ⟨true, false, 4, 8, 10⟩)
    ∧ decode {} [0x28812320] = .ok (.sraC ⟨false, false, 4, 8, 10⟩)
    ∧ decode {} [0x28813324] = .ok (.rotC ⟨true, false, 4, 8, 10⟩)
    ∧ decode {} [0x28810330] = .ok (.minC ⟨false, false, 4, 8, 10⟩)
    ∧ decode {} [0x28811334] = .ok (.maxC ⟨true, false, 4, 8, 10⟩)
    ∧ decode {} [0x28812330] = .ok (.minuC ⟨false, false, 4, 8, 10⟩)
    ∧ decode {} [0x28813334] = .ok (.maxuC ⟨true, false, 4, 8, 10⟩)
    ∧ decode {} [0x28810340] = .ok (.cmpeqC ⟨false, false, 4, 8, 10⟩)
    ∧ decode {} [0x28811344] = .ok (.cmpneC ⟨true, false, 4, 8, 10⟩)
    ∧ decode {} [0x28812340] = .ok (.cmpltC ⟨false, false, 4, 8, 10⟩)
    ∧ decode {} [0x28813344] = .ok (.cmpltuC ⟨true, false, 4, 8, 10⟩)
    ∧ decode {} [0x00810350] = .ok (.movC ⟨false, false, 4, 8, 0⟩)
    ∧ decode {} [0x00810364] = .ok (.popcC ⟨true, false, 4, 8, 0⟩)
    ∧ decode {} [0x00811360] = .ok (.clzC ⟨false, false, 4, 8, 0⟩)
    ∧ decode {} [0x00812364] = .ok (.ctzC ⟨true, false, 4, 8, 0⟩)
    ∧ decode {} [0x00010400] = .ok (.vidxC ⟨false, false, 4, 0, 0⟩)
    ∧ decode {} [0x28811404] = .ok (.vaffC ⟨true, false, 4, 8, 10⟩)
    ∧ decode {} [0x00810410] = .ok (.vtagC ⟨false, false, 4, 8, 0⟩)
    ∧ decode {} [0x28810424] = .ok (.add64C ⟨true, false, 4, 8, 10⟩)
    ∧ decode {} [0x28811420] = .ok (.sub64C ⟨false, false, 4, 8, 10⟩)
    ∧ decode {} [0x28812424] = .ok (.shl64C ⟨true, false, 4, 8, 10⟩)
    ∧ decode {} [0x28813420] = .ok (.shr64C ⟨false, false, 4, 8, 10⟩) := by decide +kernel
theorem test_decode_c3 :
    decode {} [0x28810434] = .ok (.divC ⟨true, false, 4, 8, 10⟩)
    ∧ decode {} [0x28811430] = .ok (.divuC ⟨false, false, 4, 8, 10⟩)
    ∧ decode {} [0x28812434] = .ok (.remC ⟨true, false, 4, 8, 10⟩)
    ∧ decode {} [0x28813430] = .ok (.remuC ⟨false, false, 4, 8, 10⟩)
    ∧ decode {} [0x28810504] = .ok (.faddC ⟨true, false, 4, 8, 10⟩)
    ∧ decode {} [0x28811500] = .ok (.fsubC ⟨false, false, 4, 8, 10⟩)
    ∧ decode {} [0x28812504] = .ok (.fmulC ⟨true, false, 4, 8, 10⟩)
    ∧ decode {} [0x28810510] = .ok (.fminC ⟨false, false, 4, 8, 10⟩)
    ∧ decode {} [0x28811514] = .ok (.fmaxC ⟨true, false, 4, 8, 10⟩)
    ∧ decode {} [0x00812510] = .ok (.fabsC ⟨false, false, 4, 8, 0⟩)
    ∧ decode {} [0x00813514] = .ok (.fnegC ⟨true, false, 4, 8, 0⟩)
    ∧ decode {} [0x28810520] = .ok (.fcmpeqC ⟨false, false, 4, 8, 10⟩)
    ∧ decode {} [0x28811524] = .ok (.fcmpneC ⟨true, false, 4, 8, 10⟩)
    ∧ decode {} [0x28812520] = .ok (.fcmpltC ⟨false, false, 4, 8, 10⟩)
    ∧ decode {} [0x28813524] = .ok (.fcmpleC ⟨true, false, 4, 8, 10⟩)
    ∧ decode {} [0x00810600] = .ok (.frndC ⟨false, false, 4, 8, 0⟩)
    ∧ decode {} [0x00811604] = .ok (.ffloorC ⟨true, false, 4, 8, 0⟩)
    ∧ decode {} [0x00812600] = .ok (.fceilC ⟨false, false, 4, 8, 0⟩)
    ∧ decode {} [0x00813604] = .ok (.ftruncC ⟨true, false, 4, 8, 0⟩)
    ∧ decode {} [0x00810610] = .ok (.fclassC ⟨false, false, 4, 8, 0⟩)
    ∧ decode {} [0x00810804] = .ok (.exp2C ⟨true, false, 4, 8, 0⟩)
    ∧ decode {} [0x00811800] = .ok (.log2C ⟨false, false, 4, 8, 0⟩)
    ∧ decode {} [0x00812804] = .ok (.sinpiC ⟨true, false, 4, 8, 0⟩)
    ∧ decode {} [0x00813800] = .ok (.cospiC ⟨false, false, 4, 8, 0⟩)
    ∧ decode {} [0x28810D14] = .ok (.mmaC ⟨true, false, 4, 8, 10⟩)
    ∧ decode {} [0x28811D10] = .ok (.mmaSpC ⟨false, false, 4, 8, 10⟩)
    ∧ decode {} [0x00010D24] = .ok (.acczC ⟨true, false, 4, 0, 0⟩)
    ∧ decode {} [0x28810E00] = .ok (.setInsC ⟨false, false, 4, 8, 10⟩)
    ∧ decode {} [0x28811E04] = .ok (.setDelC ⟨true, false, 4, 8, 10⟩)
    ∧ decode {} [0x28812E00] = .ok (.setTestC ⟨false, false, 4, 8, 10⟩)
    ∧ decode {} [0x00813E04] = .ok (.setCardC ⟨true, false, 4, 8, 0⟩)
    ∧ decode {} [0x28810E10] = .ok (.setRankC ⟨false, false, 4, 8, 10⟩)
    ∧ decode {} [0x28811E14] = .ok (.setSelC ⟨true, false, 4, 8, 10⟩)
    ∧ decode {} [0x28812E10] = .ok (.setNextC ⟨false, false, 4, 8, 10⟩) := by decide +kernel
theorem test_decode_traps :
    decode {} [3] = .ok (.illegalLength 3)
    ∧ decode {} [0x00000000] = .ok (.undefinedOpcode 0 0 0)
    ∧ decode {} [0x00000F09, 7] = .ok (.emulatedOpcode 0xF09 7 0)
    ∧ decode {} [0x00002021, 7] = .ok (.undefinedOpcode 0x2021 7 0) := by decide +kernel

/-! Ill-formed terms, one for each check, and words that the decoder refuses. -/

def bad (i : Instr) (x : DCtx := {}) : Bool := !i.wellFormed x
def v1 : Src := .vec 1 .ident
def s1 : Src := .sca 1
theorem test_bad_forms : bad (.add ⟨.w, false, false, 1, v1, .lit 5, .zero⟩) ∧ bad (.add ⟨.eL, false, false, 1, v1, v1, .zero⟩)
    ∧ bad (.add ⟨.eL, false, false, 1, .lit 5, .lit 5, .zero⟩) ∧ bad (.add ⟨.e0, false, false, 1, v1, .lit 5, .zero⟩)
    ∧ bad (.mad (w false false 1 v1 v1 .zero)) ∧ bad (.cpy (w false false 1 s1 s1 .zero) 0 false false)
    ∧ bad (.fence (e0 false false 0 .zero .zero .zero) .sc .warp) ∧ bad (.add (w false false 1 v1 v1 v1))
    ∧ bad (.ld (w false false 1 s1 .zero .zero) ⟨false, 0⟩ .w32 ⟨.acq, .die⟩) := by decide +kernel
theorem test_bad_destinations : bad (.nop (w false false 1 .zero .zero .zero)) ∧ bad (.add64 (w false false 3 (.vec 2 .ident) (.vec 4 .ident) .zero))
    ∧ bad (.add (w false false 8 v1 v1 .zero)) { vregs := 8 } ∧ bad (.sadd (w false false 8 s1 s1 .zero)) { sregs := 8 }
    ∧ bad (.sadd (w false false 16 s1 s1 .zero)) { handler := true } ∧ bad (.add (w false false 8 v1 v1 .zero)) { handler := true }
    ∧ bad (.accz (w false false 16 .zero .zero .zero)) ∧ bad (.bfpk (w false false 1 (.vec 2 .ident) .zero .zero) .m4) { width := 16 } := by
  decide +kernel
theorem test_bad_sources : bad (.nop (w false false 0 v1 .zero .zero)) ∧ bad (.ret (w false false 0 (.imm 4) .zero .zero))
    ∧ bad (.await ⟨.eL, false, false, 0, s1, .lit 1, .zero⟩) ∧ bad (.sadd (w false false 1 v1 s1 .zero))
    ∧ bad (.tagi (w false false 1 s1 v1 .zero)) ∧ bad (.add (w false false 1 s1 v1 .zero)) ∧ bad (.atoml (w false false 1 v1 (.imm 1) .zero) .add .relaxed)
    ∧ bad (.stl (w false false 0 v1 v1 .zero) .w64) ∧ bad (.add64 (w false false 2 v1 (.vec 2 .ident) .zero))
    ∧ bad (.vtag (w false false 1 (.vec 1 (.rot 1)) .zero .zero)) ∧ bad (.ld (w false false 1 v1 .zero .zero) ⟨false, 0⟩ .w32 plain)
    ∧ bad (.ldl (e0 false false 1 v1 .zero v1) .w32) ∧ bad (.mma (w false false 1 (.vec 16 .ident) v1 .zero))
    ∧ bad (.bfpk (w false false 2 (.vec 3 .ident) .zero .zero) .m4) { width := 16 } ∧ bad (.bnkAdd (w false false 0 v1 v1 .zero) true) := by
  decide +kernel
theorem test_bad_patterns : bad (.mov (w false false 1 (.vec 1 (.bfly 32)) .zero .zero)) { width := 32 }
    ∧ bad (.mov (w false false 1 (.vec 1 (.mir 0)) .zero .zero)) ∧ bad (.mov (w false false 1 (.vec 1 (.mir 6)) .zero .zero)) { width := 32 }
    ∧ bad (.mov (w false false 1 (.vec 9 .ident) .zero .zero)) { vregs := 8 } ∧ bad (.smov (w false false 1 (.sca 9) .zero .zero)) { sregs := 8 } := by
  decide +kernel
theorem test_bad_uniform : bad (.sadd (w false true 1 s1 s1 .zero)) ∧ bad (.vperm (w false true 1 v1 v1 .zero))
    ∧ bad (.bcpy (e0 false false 0 v1 v1 v1) 0 0) ∧ bad (.pref (w false true 0 s1 .zero .zero) ⟨false, 0⟩) := by decide +kernel
theorem test_bad_modifiers : bad (.bar (w false false 1 s1 .zero .zero) 4) { coh := 4 } ∧ bad (.bar (w false false 1 s1 .zero .zero) 4) { member := 1 }
    ∧ bad (.bar (w false false 1 s1 .zero .zero) 0) { handler := true } ∧ bad (.bwait (w false false 0 s1 s1 .zero)) { handler := true }
    ∧ bad (.launch (w false false 0 s1 .zero .zero)) { handler := true } ∧ bad (.join (w false false 0 s1 .zero .zero)) { handler := true }
    ∧ bad (.cvt (w false false 1 v1 .zero .zero) .f16x2 .i32 none false) ∧ bad (.cvt (w false false 1 v1 .zero .zero) .f16x2 .f32 none false)
    ∧ bad (.ld (e0 false false 1 s1 .zero .zero) ⟨false, 0⟩ .w32 ⟨.rel, .die⟩) ∧ bad (.ld (e0 false false 1 s1 .zero .zero) ⟨false, 0⟩ .w32 ⟨.relaxed, .die⟩)
    ∧ bad (.ld (w false false 1 s1 .zero .zero) ⟨false, 0⟩ .s32 plain) ∧ bad (.st (w false false 1 s1 .zero .zero) ⟨false, 0⟩ .s8 plain)
    ∧ bad (.ld (w false false 1 s1 (.imm 4) .zero) ⟨false, 1⟩ .w32 plain) ∧ bad (.red (e0 false false 0 s1 .zero v1) ⟨false, 0⟩ .xchg false plain)
    ∧ bad (.atom (e0 false false 2 s1 .zero (.vec 4 .ident)) ⟨false, 0⟩ .fadd true plain) ∧ bad (.atoml (w false false 1 v1 v1 .zero) .fmin .relaxed)
    ∧ bad (.bulk (e0 false true 0 v1 v1 s1) .add false true 0) ∧ bad (.cpyt (w false false 1 s1 s1 .zero) false 0 3 0 true false)
    ∧ bad (.accr (w false false 1 v1 v1 .zero) 1) ∧ bad (.rett (w false false 0 .zero .zero .zero))
    ∧ bad (.movfa (w false false 1 s1 .zero .zero) true) ∧ bad (.movta (w false false 0 s1 v1 .zero) false)
    ∧ bad (.sysr (w false false 1 .zero .zero .zero) .tpc) ∧ bad (.sysw (w false false 0 s1 .zero .zero) .clk) := by decide +kernel
theorem test_bad_others : bad (.addC ⟨false, false, 8, 1, 1⟩) { vregs := 8 } ∧ bad (.nopC ⟨false, false, 0, 1, 0⟩) ∧ bad (.nopC ⟨false, true, 0, 0, 0⟩)
    ∧ bad (.illegalLength 1) ∧ bad (.emulatedOpcode 0xF00 1 0) ∧ bad (.emulatedOpcode 0xFB1 0 0) ∧ bad (.undefinedOpcode 0x301 0 0)
    ∧ bad (.sleepExpire 0) := by decide +kernel
/-- Reserved pattern, identity with P, scalar with a pattern, LIT with P, literal in the W form, DC of a vector result, reserved
type, mantissa, rounding, operation and quantity codes, an undefined MOD bit, an undefined MOD2 bit, a three-source C form. -/
theorem test_refused_words : ∀ l ∈ [[0x00010301, 0x00000281], [0x00010301, 0x00000401], [0x00010301, 0x000000C1],
    [0x00810302, 0x04000000, 5], [0x00810301, 0x03000001], [0x00410301, 0x00010001], [0x03010501, 0x00010001], [0x08000D01, 0x00410041],
    [0x00010702, 1, 0x00050000], [0x03000B11, 0x00410041], [0xC0411E42, 0x00420041, 0x00430000], [0x01010301, 0x00010001],
    [0x00000A02, 0x00000041, 0x00200000], [0x00001350]], decode {} l = .illegalOperand := by decide +kernel

/-! Words that the spec's examples write out (R29, R58, R109, R167, R188, R202, R272, R310). -/

theorem test_words_control :
    decode { width := 16, sregs := 8, vregs := 1 } [0x00452101, 0x038A0043] = .ok (.smul (w false false 5 (.sca 3) (.imm 10) .zero))
    ∧ decode {} [0x00460161, 0x00000383] = .ok (.smov (w false false 6 (.imm 3) .zero .zero))
    ∧ decode {} [0x00000051, 0xFFBC0046] = .ok (.br (w false false 0 (.sca 6) (.imm (-4)) .zero))
    ∧ decode {} [0x00470061, 0x00000045] = .ok (.bar (w false false 7 (.sca 5) .zero .zero) 0)
    ∧ decode {} [0x00000F81, 0x00000387] = .ok (.trap (w false false 0 (.imm 7) .zero .zero))
    ∧ decode { handler := true } [0x03440FA1, 0] = .ok (.sysr (w false false 4 .zero .zero .zero) .tpc)
    ∧ decode { handler := true } [0x03001FA1, 0x00000044] = .ok (.sysw (w false false 0 (.sca 4) .zero .zero) .tpc)
    ∧ decode { handler := true } [0x00002F81, 0] = .ok (.rett (w false false 0 .zero .zero .zero)) := by decide +kernel
theorem test_words_vector :
    decode {} [0x00010311, 0x03810000] = .ok (.and (w false false 1 (.vec 0 .ident) (.imm 1) .zero))
    ∧ decode {} [0x00440341, 0x03800001] = .ok (.cmpeq (w false false 4 v1 (.imm 0) .zero))
    ∧ decode {} [0x00414200] = .ok (.maskIfC ⟨false, false, 5, 4, 0⟩) ∧ decode {} [0x00016200] = .ok (.maskEndC ⟨false, false, 5, 0, 0⟩)
    ∧ decode {} [0x00043502, 0x00020001, 0x00000003] = .ok (.fma (e0 false false 4 v1 (.vec 2 .ident) (.vec 3 .ident)) .f32)
    ∧ decode {} [0x07010701, 0] = .ok (.cvt (w false false 1 .zero .zero .zero) .f32 .i32 none false)
    ∧ decode {} [0x07010701, 0x00000044] = .ok (.cvt (w false false 1 (.sca 4) .zero .zero) .f32 .i32 none false)
    ∧ decode {} [0x02041911, 0x00020001] = .ok (.vsortkv (w false false 4 v1 (.vec 2 .ident) .zero) .f32 false) := by decide +kernel
theorem test_words_matrix :
    decode {} [0x07000D01, 0x038F1380] = .ok (.tdset (w false false 0 (.imm 256) (.imm 15) .zero) false .m8)
    ∧ decode {} [0x07010D01, 0x439F2380] = .ok (.tdset (w false false 1 (.imm 512) (.imm 1055) .zero) false .m8)
    ∧ decode {} [0x04000D10] = .ok (.mmaC ⟨false, false, 0, 0, 1⟩) ∧ decode {} [0x00000D20] = .ok (.acczC ⟨false, false, 0, 0, 0⟩)
    ∧ decode {} [0x00051D31, 0x03800000] = .ok (.accr (w false false 5 .zero (.imm 0) .zero) 0)
    ∧ decode {} [0x01022D32, 0x03900000, 0x00000003] = .ok (.accd (e0 false false 2 .zero (.imm 16) (.vec 3 .ident)) true) := by
  decide +kernel
theorem test_encode : encode (.add ⟨.eL, false, false, 1, .vec 0 .ident, .lit 100000, .zero⟩) = [0x00810302, 0x03000000, 0x000186A0]
    ∧ encode (.mmaC ⟨false, false, 0, 0, 1⟩) = [0x04000D10] ∧ decodeTableWord 32 0x20 = some (.exitC ⟨false, false, 0, 0, 0⟩) := by
  decide +kernel

/-! One instruction on a small state: the result worked by hand from its rule, or in the spec's example. -/

def after (i : Instr) (s : State) : State := match exec i s with | .next t => t | _ => s
/-- s3 after a scalar instruction on s1 = `a` and s2 = `b`. -/
def scalar (i : Ops → Instr) (a b : DWord) : DWord :=
  readS (after (i (fields 3 (.sca 1) (.sca 2) .zero)) (withS [(1, a), (2, b), (3, 9)])).warp 3
/-- The lanes of v3 after a vector instruction on lanes 0 and 1 of v1 and v2, in a warp of two active lanes. -/
def lanes2 (i : Ops → Instr) (a b : Word) : List Word :=
  ((List.range 3).map (readV (after (i (fields 3 (.vec 1 .ident) (.vec 2 .ident) .zero))
    (withWarp fun w => writeV (writeV (writeV w 1 (.gen [a, b, 7])) 2 (.gen [b, b, 7])) 3 (.uni 5))).warp 3).lane)
/-- R169, R170: wrapping, high products, shifts by more than the width, and the division corners. -/
theorem test_scalar : scalar .ssub 1 2 = -1 ∧ scalar .smulh (-1) (-1) = 0 ∧ scalar .smulhu (-1) (-1) = 0xFFFFFFFFFFFFFFFE
    ∧ scalar .sshl 1 65 = 2 ∧ scalar .ssra 0x8000000000000000 63 = -1 ∧ scalar .srot 0x8000000000000001 1 = 3
    ∧ scalar .sdiv 0x8000000000000000 (-1) = 0x8000000000000000 ∧ scalar .sdiv 5 0 = -1 ∧ scalar .srem (-7) 2 = -1
    ∧ scalar .sremu 5 0 = 5 ∧ scalar .scmplt (-1) 0 = 1 ∧ scalar .scmpltu (-1) 0 = 0 ∧ scalar .sandn 7 2 = 5 := by decide +kernel
theorem test_s0_discards : readS (after (.smov (fields 0 (.imm 5) .zero .zero)) demo).warp 0 = 0
    ∧ (after (.smov (fields 0 (.imm 5) .zero .zero)) demo).warp.pc = 0x40000C := by decide +kernel
/-- R171: MASK.IF saves exec and narrows it; an inactive lane keeps its value (R162). -/
theorem test_mask : (after (.maskIf (fields 5 (.imm 2) .zero .zero)) demo).warp.exec = 2
    ∧ readS (after (.maskIf (fields 5 (.imm 2) .zero .zero)) demo).warp 5 = 3
    ∧ (after (.maskElse (fields 5 (.sca 4) .zero .zero)) (withS [(5, 0xFF), (4, 0xF)])).warp.exec = 0xF0
    ∧ (after (.maskLoop (fields 5 (.imm 0) .zero .zero)) (withS [(5, 0xF0)])).warp.exec = 0xF0 := by decide +kernel
theorem test_vector : lanes2 .add 0xFFFFFFFF 1 = [0, 2, 5] ∧ lanes2 .adds 0x7FFFFFFF 1 = [0x7FFFFFFF, 2, 5]
    ∧ lanes2 .subus 1 2 = [0, 0, 5] ∧ lanes2 .mulh 0x80000000 0x80000000 = [0x40000000, 0x40000000, 5]
    ∧ lanes2 .sra 0x80000000 33 = [0xC0000000, 16, 5] ∧ lanes2 .minu 0xFFFFFFFF 1 = [1, 1, 5] ∧ lanes2 .abs 0x80000000 1 = [0x80000000, 1, 5]
    ∧ lanes2 .div 7 0 = [0xFFFFFFFF, 0xFFFFFFFF, 5] ∧ lanes2 .ctz 8 0 = [3, 32, 5] := by decide +kernel
theorem test_compare : readS (after (.cmplt (fields 3 (.vec 1 .ident) (.imm 0) .zero)) nonUni).warp 3 = 0
    ∧ readS (after (.cmpeq (fields 3 (.vec 1 .ident) (.imm 2) .zero)) nonUni).warp 3 = 2 := by decide +kernel
/-- R163: the sum of an affine register and a uniform value stays affine, and VTAG says so. -/
theorem test_tags : (readV (after (.add (fields 4 (.vec 1 .ident) (.imm 7) .zero)) affine).warp 4) = .aff 12 3
    ∧ readS (after (.vtag (fields 3 (.vec 1 .ident) .zero .zero)) affine).warp 3 = 1
    ∧ (readV (after (.vidx (fields 4 .zero .zero .zero)) affine).warp 4) = .aff 0 1 := by decide +kernel
/-- R177, R178, R58: rounding to even, a fused product, IEEE minimum of zeros, and E4M3's limit. -/
theorem test_float : lanes2 (.fadd · .f32) 0x4B800000 0x3F800000 = [0x4B800000, 0x40000000, 5]
    ∧ lanes2 (.fmul · .f32) 0x7F7FFFFF 0x40000000 = [0x7F800000, 0x40800000, 5] ∧ lanes2 (.fsub · .f32) 0x7F800000 0x7F800000 = [0x7FC00000, 0x7FC00000, 5]
    ∧ lanes2 (.fadd · .f16x2) 0x3C003C00 0x3C00BC00 = [0x40000000, 0x4000C000, 5] ∧ lanes2 (.frnd · .f32) 0x40200000 0x40600000 = [0x40000000, 0x40800000, 5]
    ∧ convert .e4m3 .f32 .rne false false 0x43E80000 = 0x7E ∧ convert .e4m3 .f32 .rne false false 0x43E88000 = 0x7F
    ∧ convert .e4m3 .f32 .rtz false false 0x47000000 = 0x7E ∧ convert .i8 .f32 .rne false false 0xC3480000 % 256 = 0x80
    ∧ convert .u32 .i32 .rne false false 0xFFFFFFFF = 0 := by decide +kernel
theorem test_special : lanes2 (.exp2 · .f32) 0x40400000 0xBF800000 = [0x41000000, 0x3F000000, 5] ∧ lanes2 (.log2 · .f32) 0x41000000 0x3F000000 = [0x40400000, 0xBF800000, 5]
    ∧ lanes2 (.sinpi · .f32) 0x3F000000 0x3F800000 = [0x3F800000, 0, 5] ∧ lanes2 (.rsq · .f32) 0x40800000 0x3E800000 = [0x3F000000, 0x40000000, 5]
    ∧ lanes2 (.rcp · .f32) 0x40000000 0 = [0x3F000000, 0x7F800000, 5] := by decide +kernel
/-- The clipped linear activation of R185. -/
def clipped : Sepia := { loaded := true, x0 := 0xC0800000, hinv := 0x3F800000, low := 0, high := 0x3F800000, segs := List.replicate 8 (0x3E000000, 0x3F000000) }
theorem test_activation : [0xC0A00000, 0x3F000000, 0x40700000, 0x40800000, 0x7F800000].map (fun x => F32.out .rne false (sepiaEval clipped .rne (F32.inp false x)))
    = [0, 0x3F100000, 0x3F780000, 0x3F800000, 0x3F800000] := by decide +kernel
/-- The sort of R189's example: a 16-lane warp with eight active lanes. -/
def sorting : State := (withWg fun g => { g with fp := { g.fp with width := 16 } }).setWarp
  { demo.warp with
    exec := 0xFF
    v := [(1, .gen [0x40400000, 0x7FC00001, 0x80000000, 0x3F800000, 0, 0xFF800000, 0xFFC00000, 0x3F800000]), (2, .aff 0 1)] }
theorem test_sort : let t := (after (.vsortkv (fields 4 (.vec 1 .ident) (.vec 2 .ident) .zero) .f32 false) sorting).warp
    (List.range 9).map (readV t 4).lane = [0xFF800000, 0x80000000, 0, 0x3F800000, 0x3F800000, 0x40400000, 0x7FC00001, 0xFFC00000, 0]
    ∧ (List.range 8).map (readV t 5).lane = [5, 2, 4, 3, 7, 0, 1, 6]
    ∧ readS (after (.vargmax (fields 3 (.vec 1 .ident) .zero .zero) .f32) sorting).warp 3 = 1 := by decide +kernel
theorem test_scan : lanes2 (.vscan · .add false) 3 4 = [3, 7, 5] ∧ lanes2 (.vscan · .add true) 3 4 = [0, 3, 5]
    ∧ lanes2 .vperm 1 1 = [1, 1, 5] := by decide +kernel
/-- R230 to R234: a store's bytes, little-endian, are what a narrow load extends; a load of an unmapped page takes 0x08. -/
noncomputable def stored : State := after (.st (fields 1 va .zero .zero) ⟨false, 0⟩ .w32 plain) (withWarp fun w => writeV { w with exec := 1 } 1 (.uni 0x8081FEFF))
theorem test_memory : stored.readMem 0x80100 4 = [0xFF, 0xFE, 0x81, 0x80] ∧ (readV (after (.ld (fields 2 (.lit 0x400103) .zero .zero) ⟨false, 0⟩ .s8 plain) stored).warp 2).lane 0 = 0xFFFFFF80
    ∧ readS (after (.lds (fields 2 (.sca 1) (.imm 2) .zero) ⟨false, 0⟩ .u16 plain) (stored.setWarp { stored.warp with s := [(1, 0x400100)] })).warp 2 = 0x8081
    ∧ ((after (.ld (fields 2 (.lit 0x300000) .zero .zero) ⟨false, 0⟩ .w32 plain) demo).gridAt 1).killed = true := by decide +kernel
theorem test_atomic : let t := after (.atom (fields 2 va .zero (.imm 5)) ⟨false, 0⟩ .add false plain) stored
    (readV t.warp 2).lane 0 = 0x8081FEFF ∧ t.readMem 0x80100 4 = [0x04, 0xFF, 0x81, 0x80] := by decide +kernel
theorem test_local : let t := after (.stl (fields 0 (.imm 64) (.vec 1 .ident) .zero) .u16) (withWarp fun w => writeV { w with exec := 1 } 1 (.uni 0x12345678))
    t.padRead 0 64 4 = [0x78, 0x56, 0, 0] ∧ (readV (after (.ldl (fields 2 (.imm 65) .zero .zero) .u8) t).warp 2).lane 0 = 0x56 := by decide +kernel
/-- The XMS update of R101. -/
theorem test_xms : xms [0x3F800000, 0x40400000, 0x40000000, 0, 0x40400000, 0xBF800000, 0x3F800000, 0x40000000] 0x40000000 0x3FC00000
    = (0x40400000, 0x408E0000) := by decide +kernel
/-- The block of R51 at m = 4: 3.0 and 31 times 0.375. -/
theorem test_block : let q := quantise 4 ((0x40400000 :: List.replicate 31 0x3EC00000).map fun x => some (prepare F32 (F32.dec x)))
    blockOf 4 q.1 (q.2.map fun i => i.getD 0) = [0x7E, 0xBB, 0xBB, 0xBB, 0xBB, 3, 0, 0, 0x16, 0x10] ++ (List.replicate 7 [0x11, 0x10]).flatten := by
  decide +kernel
/-- The drained blocks of R200. -/
def drained : Wg := { demo.wg with accs := ((List.range 16).flatMap fun r => (List.range 32).map fun j =>
  (64 * r + j, if r = 5 ∧ j = 0 then 0x447A0000 else 0x42800000)) }
/-- R79: of 10-bit samples the first is 127.75 and has mantissa 127; the place behind it lies outside the frame, and its mantissa is
0. A block of zero elements has X = 0. -/
theorem test_outside : (bfpBlocks ((some 1023 :: List.replicate 31 none).map (elemExact true))).take 10 = [0x7F, 1, 0, 0, 0, 7, 0, 0, 0x7F, 0]
    ∧ bfpBlocks ((List.replicate 32 none).map (elemExact true)) = [0, 0, 0, 0, 0, 7, 0, 0] ++ zeros 32 := by decide +kernel
theorem test_drain : let e := tileOf true .m8 0 31
    let b := drainTile drained 0 e false 32 1
    (b.drop 200).take 10 = [0x82, 0xFF, 0xFF, 0xFF, 0xFF, 7, 0, 0, 125, 8] ∧ (b.drop 640).take 8 = [0, 0, 0, 0, 0, 7, 0, 0] ∧ b.length = 1280
    ∧ (drainTile drained 0 e true 1 1).take 8 = [0x82, 0xFF, 0xFF, 0, 0, 7, 0, 0] := by decide +kernel
/-- The two-level gather of R89. -/
def gathering : State := ((((recorded []).padWrite 0 0x300 ([3, 0, 7, 1].flatMap (leBytes 4))).writeMem 0x82000 ([2, 9, 0, 5].flatMap (leBytes 4))).writeMem
  0x81000 ((List.range 6).flatMap fun r => List.replicate 16 (BitVec.ofNat 8 (16 + r))))
def gatherDesc : IdxDesc := ⟨0x401000, 6, 16, 2, true, 0x402000, 4, 0x300, 4, 0xFFFFFFFF, 0x400, 0⟩
def gatherCmd : Cmd := { id := 0, wg := 0, warp := 0, xlat := pageX, obj := 0, count := 64, kind := .gath gatherDesc }
theorem test_gather : let r := runCmd gatherCmd gathering
    r.1.flags = 2 ∧ r.2.padRead 0 0x400 64 = List.replicate 16 21 ++ List.replicate 16 18 ++ List.replicate 32 0xFF := by decide +kernel
/-- The two arrivals of R69's example. -/
theorem test_arrival : arriveWord 1920 1920 640 0 = 1280 ∧ arriveWord 1280 1920 1280 0 = 1920 + 2 ^ 56 ∧ arriveWord 5 5 5 4 = 5 + 2 ^ 56 + 2 ^ 59 := by
  decide +kernel
/-- The pane of R125 that changes shape: the members and the representation after each command. -/
def command (ins : Bool) (keys : List Nat) (v : SetVal) : SetVal := (settle v.card (keys.foldl (fun v k => (keyStep ins v k).val) v)).1
def shapes : List (SetVal) := [(true, [2, 17, 35, 53]), (true, [9]), (true, [26, 44, 60]), (true, (List.range 7).map (· + 10) ++ (List.range 5).map (· + 18)),
  (false, [2, 26, 35, 44, 53]), (false, [60]), (false, (List.range 12).map (· + 9)), (false, [22])].foldl
  (fun l p => l ++ [command p.1 p.2 (l.getLastD (SetVal.empty 64))]) []
/-- R137, R138: a PANED set whose first pane R125's slack keeps off its target becomes HASHED, and is charged its stored bytes. -/
def slack : SetVal := { u := 2 ^ 17, layout := .paned, panes :=
  ⟨0, .list, [0, 1, 2, 4, 5, 6, 8, 9, 10, 12, 14, 16, 17]⟩ :: (List.range 19).map fun i => ⟨i + 1, .list, [0]⟩ }
theorem test_layout_charge : (settleLayout slack).2 = [(1, 384), (2, 256), (3, 10), (10, 1)] := by decide +kernel
theorem test_pane_shapes : shapes.map SetVal.card = [4, 5, 8, 20, 15, 14, 2, 1]
    ∧ shapes.map (fun v => (v.panes.map Pane.rep)) = [[.list], [.map], [.map], [.map], [.map], [.runs], [.runs], [.list]]
    ∧ shapes.map (fun v => (keyTest v 17).1) = [true, true, true, true, true, true, false, false] := by decide +kernel
/-- The intersection of R139. -/
def multiples : SetVal := { u := 64, layout := .direct, panes := [⟨0, .map, (List.range 16).map (3 * ·)⟩] }
def pair : SetVal := { u := 64, layout := .direct, panes := [⟨0, .list, [21, 22]⟩] }
theorem test_intersection : let p := planCombine .inter true multiples pair
    p.res.map SetVal.members = some [21] ∧ p.charge.on 3 = 6 ∧ p.charge.on 14 = 1 ∧ p.charge.on 2 = 74 ∧ p.chargeA.on 1 = 80 ∧ p.chargeB.on 1 = 76
    ∧ p.chargeA.on 0 = 1 ∧ bulkReserve 64 2 1 = 15 := by decide +kernel
/-- R124, R138: an empty DIRECT set's pane is read where its members would enter the result, and nowhere else. -/
theorem test_empty_direct : let e := SetVal.empty 64
    (planCombine .union true e pair).chargeA = [(0, 1), (1, 72)] ∧ (planCombine .union true e pair).charge.on 12 = 0
      ∧ (planCombine .diff false e pair).chargeA = [(0, 1), (1, 72)] ∧ (planCombine .diff false pair e).chargeB = [(0, 0), (1, 64)]
      ∧ (planCombine .inter true e pair).chargeA = [(0, 0), (1, 64)] := by decide +kernel
/-- R300: the lost line of set 0 is its header's. -/
theorem test_lost_line : let n := (sets.ctx.headerAt (sets.ctx.set 0)) / 64
    ({ sets with linePoison := [n + 1, n + 2, n + 4] } : State).poisonedHeader 0 0 = [n + 1, n + 2] := by decide +kernel
theorem test_set_lanes : let t := after (.setIns (fields 3 (setH 0) (.vec 1 .ident) .zero)) (sets.setWarp (writeV sets.warp 1 (.gen [9, 9])))
    (t.ctx.set 0).val.members = [3, 7, 9] ∧ (List.range 2).map (readV t.warp 3).lane = [1, 0]
    ∧ readS (after (.setNew (fields 3 (.imm 64) .zero .zero) false) sets).warp 3 = 0x01000002 := by decide +kernel
/-- R166's tag vector and vector data of a 32-wide warp with six registers. -/
theorem test_save : let w : Warp := { v := [(0, .aff 0 1), (1, .uni 5), (2, .gen []), (3, .gen []), (4, .gen []), (5, .gen [])] }
    let b := w.save { width := 32, vregs := 6 }
    b.take 16 = leBytes 16 0xFFFFFFFFFFFFFFFFFFFFFFFFFFFFFAA1 ∧ b.length = 16 + 528 + 512 + 24 := by decide +kernel
/-- The slots of R241's five workgroups of kernel P. -/
def filled (n : List Nat) : List SlotUse := n.map fun k => ⟨k, 80 * k, 64⟩
theorem test_slots : assignSlots 64 40 5 (filled [0, 0, 0, 0]) [] = some [0, 1, 2, 3, 0] ∧ assignSlots 64 40 5 (filled [2, 1, 1, 1]) [] = some [1, 2, 3, 0, 1]
    ∧ assignSlots 64 40 5 (filled [4, 4, 4, 3]) [] = some [3, 0, 1, 2, 3] ∧ assignSlots 64 40 5 (filled [5, 5, 5, 5]) [] = none
    ∧ assignSlots 32 1 1 (filled [2, 1, 1, 1]) [] = none := by decide +kernel
/-- R292, R310's example: TRAP #7 enters the handler at 0x400400 with hs0 = 0x1300, and RETT comes back past it. -/
theorem test_trap : let t := after (.trap (fields 0 (.imm 7) .zero .zero)) { vectored with iw := [0x00000F81, 0x00000387] }
    t.warp.handler = true ∧ t.warp.pc = 0x400400 ∧ t.warp.tpc = 0x400000 ∧ t.warp.texec = 3 ∧ t.warp.exec = wmask 64
    ∧ readS t.warp 0 = 0x1300 ∧ readS t.warp 1 = 0x29 ∧ t.padRead 0 0x1300 64 = [0x29, 0, 0, 0, 0, 0, 0, 0] ++ leBytes 8 0x400000
      ++ leBytes 4 0xF81 ++ leBytes 4 0x387 ++ leBytes 8 0 ++ leBytes 8 3 ++ leBytes 8 3 ++ leBytes 8 7 ++ leBytes 8 0 := by decide +kernel
theorem test_return : let s := withWarp fun w => { w with handler := true, tpc := 0x400208, texec := 0xFF }
    let t := after (.rett (fields 0 .zero .zero .zero)) s
    t.warp.handler = false ∧ t.warp.pc = 0x400208 ∧ t.warp.exec = 0xFF := by decide +kernel
theorem test_transfer : (after (.br (fields 0 (.sca 6) (.imm (-4)) .zero)) (withS [(6, 1)])).warp.pc = 0x3FFFF0
    ∧ (after (.br (fields 0 (.sca 6) (.imm (-4)) .zero)) demo).warp.pc = 0x40000C
    ∧ readS (after (.call (fields 5 (.imm 16) .zero .zero)) demo).warp 5 = 0x40000C := by decide +kernel
/-- R263: the last of two warps completes the phase of a max cohort; both get the payload. -/
theorem test_barrier : let s := (two.setWg { two.wg with cohorts := [(0, { members := 3, arrived := 2, pop := 2, payload := 12 })] }).setWarp { two.warp with s := [(5, 40)] }
    let t := after (.bar (fields 3 (.sca 5) .zero .zero) 0) s
    readS t.warp 3 = 40 ∧ readS (t.warpAt 1) 3 = 40 ∧ (t.warpAt 1).run = .running ∧ (t.wg.cohort 0).phase = true := by decide +kernel
theorem test_step_exit : (match step placed with | .next t => (t.warpAt 0).run | _ => .running) = .exited := by decide +kernel
/-- Each pass of the host's question: the first step after reset runs the placed instruction. -/
theorem test_step_add : (match step (State.reset.withFetchWord 64 0x038A004300452101) with | .next t => t.warp.pc | _ => 0) = 0x400008 := by
  decide +kernel
/-- EXIT as placed, held by core 0's instruction caches, then overwritten with NOP: the old word until ICINV (R13, R314). -/
def stale : State := (codeLine 0 0 0x2000 true placed).writeMem 0x80000 [0x10, 0, 0, 0]
def fetched (s : State) : List Word := match s.fetch 0x400000 with | .ok l => l | _ => []
theorem test_icache : fetched stale = [0x20] ∧ fetched (stale.dropCode 0 0) = [0x10] := by decide +kernel
/-- An LDF of the page whose data is on its way (R233): the warp blocks at it, and its KIND is 6 (R280). -/
def farLoad : State :=
  let s := State.reset.withFetchWord 64 0x000A0008C3041A25
  { s with agenda := [.farWait 0] }.setWarp (writeV s.warp 8 (.uni 0x400100))
theorem test_farWait : (match step farLoad with | .next t => ((t.warpAt 0).run.kind, (t.warpAt 0).pc) | _ => (0, 0)) = (6, 0x400000) := by
  decide +kernel
/-- R20, R58: CVT reads a scalar register in every lane. -/
theorem test_cvt_scalar : let t := (after (.cvt (w false false 1 (.sca 4) .zero .zero) .f32 .i32 none false) (withS [(4, 7)])).warp
    ((readV t 1).lane 0, (readV t 1).lane 1, (readV t 1).lane 2) = (0x40E00000, 0x40E00000, 0) := by decide +kernel
/-- R43: its translation is among those in flight, and it performs under it once the entry is gone. -/
theorem test_held : (match step farLoad with
    | .next t =>
      let u := t.writeMem (leafTable + 8 * 8) (leBytes 8 0)
      let reached := fun (x : Xlate) => match x with | .ok key _ => key | .bad c => c | .wait => 0
      (t.commands.map fun c => (c.1, c.2.2.map Xlat.unit), reached (u.xlateW 0x400100 4 .read), reached (u.xlate 0 0 0x400100 4 .read))
    | _ => ([], 0, 0)) = ([(0, List.replicate 64 8)], 0x80100, 0x08) := by decide +kernel
/-- R291: an AWAIT that would wait is abandoned at once for an entry that is queued. -/
theorem test_abandon : let w := (after (.await (fields 0 (.imm 0x200) (.imm 0) .zero)) asyncHead).warp
    (w.run, w.pc, w.stint, w.fetched) = (.running, 0x400000, none, []) := by decide +kernel
theorem test_agenda : (match step { State.reset with agenda := [.event (.nop (fields 0 .zero .zero .zero))] } with | .fault _ => true | _ => false) = true := by decide +kernel

/-! Witnesses of further clauses: sources read through D, poison, failing checks, and the other forms of the commands. -/

/-- ST and CAS under U whose D, v1, is not UNI; an LDF and the loads of its kind. -/
theorem wit_uniform_data :
    (uniformRow nonUni.warp 64 (.st { fields 1 va .zero .zero with u := true } ⟨false, 0⟩ .w32 plain)).map
        (fun p => (p.1.u, firstNonUni nonUni.warp p.2)) = some (true, some 3)
    ∧ (uniformRow nonUni.warp 64 (.atom { fields 1 va .zero (.imm 5) with u := true } ⟨false, 0⟩ .cas false plain)).map
        (fun p => (p.1.u, firstNonUni nonUni.warp p.2)) = some (true, some 3)
    ∧ (uniformRow nonUni.warp 64 (.sel { fields 4 (.imm 1) (.imm 2) (.vec 1 .ident) with u := true })).map
        (fun p => firstNonUni nonUni.warp p.2) = some (some 2) := by decide +kernel
/-- The line of 0x80100 is poisoned, and the scratchpad's word of offset 64. -/
def spoilt : State := { withCore fun c => { c with poison := [4] } with linePoison := [0x2004] }
theorem wit_poison : (∀ j ∈ bodyLanes spoilt.warp spoilt.width false, spoilt.reaches 0x400100 4 .read true 0x80100 = true
      ∧ spoilt.reaches 0x400100 4 .rw false 0x80100 = true)
    ∧ 0 ∈ bodyLanes spoilt.warp spoilt.width false ∧ spoilt.linePoisoned 0x80100 = true
    ∧ demo.accessCause 0x300000 4 .write true = some 0x08 := by decide +kernel
/-- A misaligned lane, one past the allocation, a poisoned word. -/
theorem wit_local_faults : localCause demo.wg 65 4 = some 0x0A ∧ localCause demo.wg (BitVec.ofNat 64 demo.wg.alloc) 4 = some 0x0C
    ∧ (localRow demo.warp 64 (.ldl (fields 3 (.imm 65) .zero .zero) .w32)).map (fun r => (r.2.2.1 0, r.2.2.2)) = some (65, 4, true)
    ∧ (localRow demo.warp 64 (.stl (fields 0 (.imm 65) (.vec 1 .ident) .zero) .w32)).isSome = true
    ∧ (localRow demo.warp 64 (.bnkXms (fields 0 (.imm 65) (.vec 1 .ident) .zero) false)).isSome = true
    ∧ localCause spoilt.wg 64 4 = none
    ∧ (verifyLanes (bodyLanes spoilt.warp 64 false) (fun _ => 64) 4 spoilt).locPoisoned spoilt.wg 64 4 = true := by decide +kernel
/-- BULK with its object past the allocation, a misaligned base, and over its own object. -/
theorem wit_bulk_faults : (bulkFault demo.wg (16 * 65535) ⟨0, 64, 1, 1, 0, 0⟩ none none).map Prod.fst = some 0x12
    ∧ bulkFault demo.wg 0x400 ⟨2, 64, 1, 1, 0, 0⟩ none none = some (0x14, 2)
    ∧ bulkFault demo.wg 0x400 ⟨0, 0, 1, 1, 0, 0⟩ (some 0) none = some (0x14, 0)
    ∧ (bulkFault demo.wg 0x400 ⟨0x400, 4, 1, 1, 0, 0⟩ none none).map Prod.fst = some 0x12 := by decide +kernel
/-- A BULK.XMS of two rows of four elements and their pairs, over one poisoned word. -/
def xmsCmd : BankCmd := .bulk 0 0 0 .xms false 5 0 0 4 2 1 16 0 0x300 0x400
def xmsed : State := withCore fun c => { c with bank := [xmsCmd], poison := [1] }
theorem wit_bank_xms : (xmsed.coreAt 0).bank[0]? = some xmsCmd ∧ (xmsed.wgAt 0).core = 0 ∧ (xmsed.coreAt 0).latent = []
    ∧ (∀ e ∈ (⟨0, 4, 2, 1, 16, 0⟩ : Shape3).elems, e % 4 = 0 ∧ (e + 4 ≤ 0x400 ∨ 0x400 + 16 ≤ e) ∧ e + 4 ≤ 0x300)
    ∧ 0x300 + 8 * 2 * 1 ≤ 0x400 ∧ xmsed.locPoisoned xmsed.wg 16 4 = true := by decide +kernel

/-! Copies, tiles, sets. -/

theorem oneToOne_of {x : List Xlat} {va n : Nat}
    (h : ∀ i, i < n → ∀ j, j < n → xkey x (va + i) = xkey x (va + j) → i = j) : oneToOne x va n := fun i j hi hj => h i hi j hj
theorem clean_of {s : State} {x : List Xlat} {va n : Nat}
    (h : ∀ i, i < n → isPeer (xkey x (va + i)) = false ∧ s.linePoisoned (xkey x (va + i)) = false) : s.clean x va n := h
theorem wit_copy_global : ((queued copyOut).coreAt 0).latent = [] ∧ oneToOne pageX (0x400100 : DWord).toNat 64 :=
  ⟨by decide +kernel, oneToOne_of (by decide +kernel)⟩
/-- CPYT of a tile of one row of 64 columns: 4-bit MX elements at 0x401000, scales at 0x402000. -/
def tileCopy (out : Bool) : TileCopy := ⟨out, 9, 3, tile64, 0x401000, 0, 0x402000, false, false⟩
theorem wit_tile_in : (isMxCode (tileCopy false).fmt = true ∧ isBfpCode (tileCopy false).fmt = false)
    ∧ (∀ r, r < (tileCopy false).storedRows → tiled.clean pageX ((tileCopy false).va.toNat + r * (tileCopy false).step) (tileCopy false).rowBytes)
    ∧ tiled.clean pageX (tileCopy false).scale.toNat (tileCopy false).tile.blocks := by
  refine ⟨by decide +kernel, ?_, clean_of (by decide +kernel)⟩
  have h : ∀ r, r < (tileCopy false).storedRows → ∀ i, i < (tileCopy false).rowBytes →
      isPeer (xkey pageX ((tileCopy false).va.toNat + r * (tileCopy false).step + i)) = false
        ∧ tiled.linePoisoned (xkey pageX ((tileCopy false).va.toNat + r * (tileCopy false).step + i)) = false := by decide +kernel
  exact fun r hr => clean_of (h r hr)
theorem wit_tile_out : tiled.core.latent = [] ∧ tiled.locPoisoned tiled.wg tile64.base.toNat tile64.bytes = false
    ∧ (tileCopy true).storedRows = 1
    ∧ (∀ j, j < (tileCopy true).rowBytes → ∀ j', j' < (tileCopy true).rowBytes →
        xkey pageX ((tileCopy true).va.toNat + 0 * (tileCopy true).step + j)
          = xkey pageX ((tileCopy true).va.toNat + 0 * (tileCopy true).step + j') → j = j')
    ∧ oneToOne pageX (tileCopy true).scale.toNat tile64.blocks
    ∧ (∀ j, j < (tileCopy true).rowBytes → ∀ k, k < tile64.blocks →
        xkey pageX ((tileCopy true).va.toNat + 0 * (tileCopy true).step + j) ≠ xkey pageX ((tileCopy true).scale.toNat + k))
    ∧ ∀ j, j < (tileCopy true).rowBytes → isPeer (xkey pageX ((tileCopy true).va.toNat + 0 * (tileCopy true).step + j)) = false := by
  refine ⟨?_, ?_, ?_, ?_, oneToOne_of ?_, ?_, ?_⟩ <;> decide +kernel
/-- R89's descriptor for GATH, SCAT and SCAT.RED of ADD. -/
theorem wit_index : gatherDesc.ok 0 = true ∧ gatherDesc.ok 1 = true ∧ gatherDesc.ok 2 = true
    ∧ gathering.cleanIndex pageX gathering.wg gatherDesc
    ∧ gathering.clean pageX gatherDesc.abase.toNat (gatherDesc.aext * gatherDesc.rowb)
    ∧ gathering.locPoisoned gathering.wg gatherDesc.loc (gatherDesc.n * gatherDesc.rowb) = false
    ∧ oneToOne pageX gatherDesc.abase.toNat (gatherDesc.aext * gatherDesc.rowb)
    ∧ (∀ k, k < gatherDesc.aext → ∀ j, j < gatherDesc.rowb → ∀ i, i < 4 * gatherDesc.bext →
        xkey pageX (gatherDesc.abase.toNat + k * gatherDesc.rowb + j) ≠ xkey pageX (gatherDesc.bbase.toNat + i))
    ∧ gatherDesc.cLocal = true := by
  refine ⟨?_, ?_, ?_, ⟨?_, (if_pos (by decide)).mpr ?_, fun _ => clean_of ?_⟩, clean_of ?_, ?_, oneToOne_of ?_, ?_, ?_⟩ <;> decide +kernel
/-- A decoder that holds sixteen records. -/
def fullDecoder : State := submitted.setDecoderAt 0 3 { queue := List.replicate 16 theRec }
theorem wit_decoder_busy :
    let s0 := fullDecoder.flushOver fullDecoder.cur ((List.range 64).map fun j => (xkey pageX (0x400100 + j), 1))
    let b := (s0.engRead pageX 0x400100 64).1
    fullDecoder.checkRange 0 0 ⟨0x400100, 64, [.engRead], 4⟩ = .ok pageX ∧ anyPoison b = false
      ∧ ¬(fullDecoder.decoderAt 0 3).held < 16 ∧ (fullDecoder.decoderAt 0 2).held < 16 := by decide +kernel
/-- ACCL over a poisoned word, and a started drain of accumulator 1 to tile 4 and, transposed, to tile 5. -/
def drain2 : State :=
  let s := withWg fun g => { g with tiles := [(4, tileOf true .m7 0x100 31), (5, tileOf true .m7 0x300 31)] }
  s.setCore { s.core with
    poison := [0x40], matq := [⟨1, 0, 0, 1, .accd 4 (some 5) 0x200, true⟩, ⟨2, 0, 0, 2, .accl 0x400 3, false⟩] }
theorem wit_drain2 : (drain2.coreAt 0).matq[0]? = some ⟨1, 0, 0, 1, .accd 4 (some 5) 0x200, true⟩
    ∧ (drain2.coreAt 0).matq[1]? = some ⟨2, 0, 0, 2, .accl 0x400 3, false⟩ ∧ (drain2.coreAt 0).latent = []
    ∧ (∀ e ∈ (drain2.coreAt 0).matq.take 1, ¬(e.wg = 0 ∧ e.acc = 2)) ∧ (some 5 : Option Nat) ≠ some 4
    ∧ drain2.locPoisoned (drain2.wgAt 0) 0x400 4 = true ∧ accdFault 4 (some 5) drain2.wg = none
    ∧ ((drain2.wgAt 0).tile 4).base.toNat + (drainTile (drain2.wgAt 0) 1 ((drain2.wgAt 0).tile 4) false 32 1).length
        ≤ ((drain2.wgAt 0).tile 5).base.toNat
    ∧ 0x200 + 16 ≤ ((drain2.wgAt 0).tile 4).base.toNat := by decide +kernel

/-- Set 1 is lost; a stale handle; a key at the universe in lane 1. -/
def lostSet : State := sets.setCtxAt 0 { sets.ctx with sets := [(0, sets.ctx.set 0), (1, { sets.ctx.set 1 with lost := true })] }
theorem wit_set_faults : sets.ctx.stale 0x02000000 = true ∧ sets.ctx.stale 0x01000002 = true
    ∧ lostSet.ctx.stale 0x01000001 = false ∧ (lostSet.ctx.set 1).lost = true
    ∧ (let s := sets.setWarp (writeV sets.warp 1 (.gen [9, 100]))
       let o := opd (fields 3 (setH 0) (.vec 1 .ident) .zero)
       s.usable 0x01000000 = true ∧ laneKeys s o = [(0, 9), (1, 100)] ∧ (s.ctx.set 0).val.u = 100) := by decide +kernel
/-- A poisoned line in the header of set 0: the slice finds it, the instruction takes 0x38, and the set is lost. -/
def headerLost : State := { sets with linePoison := [0x30000 / 64 + 1] }
theorem test_header_poison : headerLost.poisonedSet 0 0 = true ∧ headerLost.usable 0x01000000 = false
    ∧ ((after (.setCost (fields 3 (setH 0) (.imm 3) .zero)) headerLost).ctx.set 0).lost = true
    ∧ (headerLost.newHeader 0 (sets.ctx.set 0)).linePoison = [] := by decide +kernel
/-- Started commands of the two sets: a copy, a count of the union, an import and an export of 3 keys at 0x402000. -/
def startedCmd (k : SetCmdKind) : SetCmd := { unionCmd with kind := k, started := true, va := some small, vb := some small, xlat := pageX }
def begun (k : SetCmdKind) : State := sets.setCtxAt 0 { sets.ctxAt 0 with setCmds := [startedCmd k] }
theorem wit_set_complete : (∀ k ∈ [SetCmdKind.copy, .xcard .union 0x240, .import_ false 0x402000 3, .export_ 0x402000 3],
      (begun k).sliceFrozen (((begun k).ctxAt 0).cmdHome (startedCmd k)) = false ∧ ((begun k).ctxAt 0).setCmds[0]? = some (startedCmd k)
        ∧ ((begun k).coreAt 0).latent = [])
    ∧ ((∀ k ∈ small.members ++ small.members, k < 2 ^ 32) ∧ small.members = [3, 7] ∧ small.u ≤ 2 ^ 32 ∧ 0x200 + 16 ≤ 0x240)
    ∧ oneToOne pageX (0x402000 : DWord).toNat (8 + 4 * 3)
    ∧ sets.clean pageX (0x402000 : DWord).toNat (4 * 3) := by
  refine ⟨?_, ?_, oneToOne_of ?_, clean_of ?_⟩ <;> decide +kernel

/-! Control flow and exceptions. -/

/-- A JOIN whose word can no longer be read, and one whose line is poisoned. -/
theorem wit_wait_again : demo.xlate 0 0 0x300000 8 .read = .bad 0x08
    ∧ (withWarp fun w => { w with run := .join 0x300000 }).warp.run = .join 0x300000 := by
  decide +kernel
/-- A waiting LAUNCH with a counter and room in the queue, and a grid that the debugger holds. -/
def entryC : LaunchEntry := { entry0 with fp := { counter := 0x400200 } }
def pushing : State := (withWarp fun w => { w with run := .launch entryC 0x400100 })
def heldGrid : State := (withCtx fun c => { c with debugger := some { ring := 0x4000, size := 16, claims := 0 } }).setWarp
  { demo.warp with run := .halted none true, stint := none }
theorem wit_launch_push : (pushing.warpAt 0).run = .launch entryC 0x400100 ∧ (pushing.wgAt 0).place = .resident
    ∧ (pushing.wgAt 0).launchQ.length < 4 ∧ entryC.fp.counter ≠ 0 ∧ (pushing.flushReds 0).signalTo 0 entryC.fp.counter = .key 0x80200
    ∧ heldGrid.gridStopped (heldGrid.wgAt 0).seq = true ∧ pending.gridStopped (pending.wgAt 0).seq = false
    ∧ (withWg fun g => { g with launchQ := [entry0, entry0, entry0, entry0] }).wg.launchQ.length = 4 := by decide +kernel
/-- TRAP whose vector entry is 0, with an error ring, and one whose vector entry nothing maps. -/
def ringed : State := vectored.setCtxAt 0 { vectored.ctx with errn := 64, err := memKey 2 0x1000 }
def killing : State := ringed.setWarp { ringed.warp with tvb := 0x401000 }
def unreadable : State := ringed.setWarp { ringed.warp with tvb := 0x300000 }
theorem deliverable_of {s : State} {k : Nat} {c : Byte}
    (h : (s.warpAt k).handler = false ∧ (s.warpAt k).run = .running ∧ (s.warpAt k).notice = none ∧ (s.wgAt (wgOf k)).haltBy = none
      ∧ (∀ r ∈ s.reds, 32 * r.wg + r.warp ≠ k) ∧ (∀ j ∈ (s.wgAt (wgOf k)).keys (wgOf k), j ≠ k → (s.warpAt j).raised = none)
      ∧ ((s.ctxAt (s.wgAt (wgOf k)).ctx).debugger.any fun d => d.claims.getLsbD c.toNat) = false) : s.deliverable k c := h
theorem wit_deliverable : vectored.deliverable 0 0x29 ∧ asyncHead.deliverable 0 0x28 :=
  ⟨deliverable_of (by decide +kernel), deliverable_of (by decide +kernel)⟩
theorem wit_deliverable_killing : killing.deliverable 0 0x29 := deliverable_of (by decide +kernel)
theorem wit_deliverable_unreadable : unreadable.deliverable 0 0x29 := deliverable_of (by decide +kernel)
theorem wit_killing : killing.readVector 0 0x29 = .ok 0 ∧ policyOf 0 0x29 = .handle ∧ (0 : DWord).toNat < 4 ∧ policyOf 0x400403 0x29 = .kill ∧ killing.hasWg 0 = true
    ∧ Tab.wf {} killing.wgs = true ∧ killing.wg.place = .resident ∧ warpNo 0 < killing.wg.fp.warps
    ∧ (∃ p ∈ killing.grids, p.1 = killing.wg.seq)
    ∧ (killing.ctx.errTail - killing.ctx.errHead).toNat + 1 < killing.ctx.errn ∧ killing.ctx.errn < 2 ^ 32
    ∧ unreadable.readVector 0 0x29 = .bad 0x08 ∧ unreadable.siblingsStopped 0 = true
    ∧ (unreadable.ctx.errTail - unreadable.ctx.errHead).toNat + 1 < unreadable.ctx.errn := by decide +kernel
/-- RETT in a handler behind which an asynchronous entry waits. -/
def returning : State := vectored.setWarp { vectored.warp with handler := true, tpc := 0x400010, texec := 1, trapQ := [event] }
theorem wit_return_entry :
    let w := returning.warp
    let r := returning.setWarp { w with handler := false, exec := w.texec, pc := w.tpc, handling := none, stint := none, stall := none
                                        fetched := [], rob := [], held := none, run := .running }
    w.tpc.toNat % 4 = 0 ∧ canonical w.tpc = true ∧ w.trapQ = event :: [] ∧ event.async = true ∧ r.deliverable returning.cur 0x28
      ∧ r.readVector returning.cur 0x28 = .ok 0x400401 ∧ 4 ≤ (0x400401 : DWord).toNat ∧ policyOf 0x400401 0x28 = .handle :=
  ⟨by decide +kernel, by decide +kernel, by decide +kernel, by decide +kernel, deliverable_of (by decide +kernel), by decide +kernel,
    by decide +kernel, by decide +kernel⟩

/-- Warp 0, told to halt, is the last of its workgroup to stop, after warp 1's double fault. -/
def lastStop : State := ((told.setWarpAt 1 { told.warpAt 1 with run := .halted none false }).setCtxAt 0
  { demo.ctx with errn := 64, err := memKey 2 0x1000 }).setWg
  { told.wg with haltBy := some ⟨1, event, none, some (0x29, 0x400000, 7)⟩, dead := true }
/-- A warp with a full asynchronous queue, and one whose 0x28 entry's handler address is 0. -/
def crowdedQ : State := withWarp fun w => { w with trapQ := List.replicate 7 event }
def discarding : State := asyncHead.writeMem 0x80940 (leBytes 8 1)
/-- R295: a told warp whose dispatched instruction waits goes on; one that waits before its dispatch stops. -/
def toldWaiting (r : List RobEntry) : State := told.setWarp { told.warp with stint := some 3, stall := some .migrate, rob := r }
theorem test_told_waits : (((after (.siblingHaltStop 0) (toldWaiting [⟨[0x10], true, false, false, none⟩])).warpAt 0).run.live,
    ((after (.siblingHaltStop 0) (toldWaiting [])).warpAt 0).run.live) = (true, false) := by decide +kernel
theorem wit_last_stop : (lastStop.warpAt 0).notice = some 0 ∧ (lastStop.warpAt 0).stint = none ∧ (lastStop.warpAt 0).rob = []
    ∧ lastStop.siblingsStopped 0 = true ∧ (lastStop.wgAt 0).haltBy.isSome = true ∧ (lastStop.wgAt 0).reported = false
    ∧ (lastStop.ctx.errTail - lastStop.ctx.errHead).toNat + 1 < lastStop.ctx.errn ∧ lastStop.ctx.errn < 2 ^ 32
    ∧ (trapRow told.warp (.bkpt (fields 0 (.imm 7) .zero .zero))).isSome = true ∧ told.cur = 0 ∧ told.siblingsStopped 0 = false
    ∧ (told.warpAt 0).rob = [] ∧ (crowdedQ.warpAt 0).trapQ.length = 7 ∧ (asyncHead.warpAt 0).rob = []
    ∧ discarding.readVector 0 0x28 = .ok 1 ∧ policyOf 1 0x28 = .handle ∧ (1 : DWord).toNat < 4 := by decide +kernel
theorem wit_discarding : discarding.deliverable 0 0x28 ∧ (discarding.warpAt 0).trapQ = [event] ∧ (discarding.warpAt 0).rob = []
    ∧ (discarding.warpAt 0).stint = some 0 := ⟨deliverable_of (by decide +kernel), by decide +kernel, by decide +kernel, by decide +kernel⟩
/-- A double fault while every sibling has stopped. -/
def twiceAlone : State := twice.setWarpAt 1 { demo.warp with run := .exited, stint := none }
theorem wit_double_alone : twiceAlone.warp.handler = true ∧ twiceAlone.warp.notice = none ∧ twiceAlone.warp.handling = some event
    ∧ twiceAlone.siblingsStopped twiceAlone.cur = true
    ∧ (twiceAlone.ctx.errTail - twiceAlone.ctx.errHead).toNat + 1 < twiceAlone.ctx.errn ∧ twiceAlone.ctx.errn < 2 ^ 32
    ∧ (∀ k ∈ twice.wg.keys 0, k ≠ twice.cur → (twice.warpAt k).run = .running ∧ (twice.warpAt k).raised = none) := by decide +kernel

/-! Translation, scheduling and eviction. -/

/-- The page at 0x480000 has a valid entry that permits nothing. -/
def idlePage : State := demo.writeMem (leafTable + 8 * 9) (leBytes 8 (0x100000 + 3))
def leafAt (s : State) (va : Nat) : Option Leaf := match s.walk (s.ctxAt 0) va with | .leaf l => some l | _ => none
theorem wit_leaves : (leafAt demo 0x400100).isSome = true ∧ (leafAt demo 0x400100).any (fun l => l.permits .read) = true
    ∧ canonical 0x400100 = true ∧ (leafAt idlePage 0x480000).isSome = true
    ∧ (leafAt idlePage 0x480000).all (fun l => [Acc.read, .write, .rw, .fetch, .engRead, .engWrite].all fun k => !l.permits k) = true := by
  decide +kernel
/-- The last workgroup of a grid that has a bitmap and a counter, and a workgroup that was reported halted. -/
def ended4 : State := ended.setWg { ended.wg with fp := { ended.wg.fp with bitmap := 0x400200, counter := 0x400300 } }
def reportedWg : State := withWg fun g => { g with reported := true }
theorem wit_finish_both : (ended4.wgAt 0).bitVa ≠ 0 ∧ (ended4.wgAt 0).fp.counter ≠ 0
    ∧ ended4.signalTo 0 (ended4.wgAt 0).bitVa = .key 0x80200 ∧ ended4.signalTo 0 0x400300 = .key 0x80300
    ∧ ended4.linePoisoned 0x80200 = false ∧ ended4.linePoisoned 0x80300 = false
    ∧ (ended4.gridAt 1).finished + 1 = (ended4.gridAt 1).fp.grid ∧ (reportedWg.wgAt 0).reported = true
    ∧ (reportedWg.gridAt (reportedWg.wgAt 0).seq).killed = false := by decide +kernel
theorem wit_counter_kept : ∀ x : State, x = { ended4 with wgs := x.wgs, grids := x.grids, mem := x.mem } →
    (∀ a, ¬(0x80200 ≤ a ∧ a < 0x80200 + 8) → x.readMem a 1 = ended4.readMem a 1) →
    x.signalTo 0 0x400300 = .key 0x80300 := by
  intro x hx hm
  rw [hx, State.signalTo_congr]
  · decide +kernel
  · intro r t2 t3 a ha j hj1 hj2
    have hl : ∀ a ∈ [(ended4.ctxAt 0).root + 8 * bits (0x400300 : DWord).toNat 54 43,
        tableOf (ended4.entry (ended4.ctxAt 0).root (bits (0x400300 : DWord).toNat 54 43)) + 8 * bits (0x400300 : DWord).toNat 42 31,
        0x18000 + 8 * bits (0x400300 : DWord).toNat 30 19, 0x18000 + 8 * (bits (0x400300 : DWord).toNat 30 25 * 64)],
        a + 8 ≤ 0x80200 := by decide +kernel
    have ht : t3 = 0x18000 := by decide +kernel
    have := hl a (ht ▸ ha)
    simpa [State.readMem, Tab.getN] using hm j (by omega)

/-- The page at 0x480000 migrates, and the counter, or the bitmap, of a workgroup whose warps have all exited lies there; one that
has finished and whose grid owes its counter. -/
def moving (bitmap counter : DWord) : State := ({ ended with mem := (demo.writeMem (leafTable + 8 * 9) (leBytes 8 0x10020F)).mem } : State).setWg
  { ended.wg with fp := { ended.wg.fp with bitmap := bitmap, counter := counter } }
def owing (c : DWord) : State := ((moving 0 c).setWg { (moving 0 c).wg with place := .finished }).setGridAt 1 { (moving 0 c).gridAt 1 with owes := true }
theorem wit_moving : (moving 0x400200 0x480200).signalTo 0 0x480200 = .wait ∧ (moving 0 0x480200).signalTo 0 0x480200 = .wait
    ∧ (moving 0x400200 0x480200).signalTo 0 ((moving 0x400200 0x480200).wgAt 0).bitVa = .key 0x80200
    ∧ (moving 0x480200 0).signalTo 0 ((moving 0x480200 0).wgAt 0).bitVa = .wait ∧ ((moving 0x480200 0).wgAt 0).bitVa ≠ 0
    ∧ ((moving 0 0x480200).wgAt 0).bitVa = 0
    ∧ ((owing 0x400200).wgAt 0).place = .finished ∧ (owing 0x400200).hasWg 0 = true ∧ ((owing 0x400200).gridAt 1).owes = true
    ∧ (owing 0x400200).signalTo 0 0x400200 = .key 0x80200 ∧ (owing 0x480200).signalTo 0 0x480200 = .wait
    ∧ (owing 0x400200).linePoisoned 0x80200 = false ∧ ((ended3.setWg { ended3.wg with place := .finished }).gridAt 1).owes = false := by
  decide +kernel
theorem wit_counter_waits : ∀ x : State, x = { moving 0x400200 0x480200 with wgs := x.wgs, grids := x.grids, mem := x.mem } →
    (∀ a, ¬(0x80200 ≤ a ∧ a < 0x80200 + 8) → x.readMem a 1 = (moving 0x400200 0x480200).readMem a 1) →
    x.signalTo 0 0x480200 = .wait := by
  intro x hx hm
  rw [hx, State.signalTo_congr]
  · decide +kernel
  · intro r t2 t3 a ha j hj1 hj2
    have hl : ∀ a ∈ [((moving 0x400200 0x480200).ctxAt 0).root + 8 * bits (0x480200 : DWord).toNat 54 43,
        tableOf ((moving 0x400200 0x480200).entry ((moving 0x400200 0x480200).ctxAt 0).root (bits (0x480200 : DWord).toNat 54 43))
          + 8 * bits (0x480200 : DWord).toNat 42 31,
        0x18000 + 8 * bits (0x480200 : DWord).toNat 30 19, 0x18000 + 8 * (bits (0x480200 : DWord).toNat 30 25 * 64)],
        a + 8 ≤ 0x80200 := by decide +kernel
    have ht : t3 = 0x18000 := by decide +kernel
    have := hl a (ht ▸ ha)
    simpa [State.readMem, Tab.getN] using hm j (by omega)
/-- R369, R270: the exit finishes with its bit while its grid's counter migrates; the owed subtraction comes later. -/
theorem test_exit_owes : let t := after (.workgroupExitFinish 0) (moving 0x400200 0x480200)
    (t.wgAt 0).place = .finished ∧ (t.gridAt 1).owes = true ∧ t.readMem 0x80200 1 = [1]
      ∧ (let u := after (.workgroupExitFinish 0) (owing 0x400200)
         (u.gridAt 1).owes = false ∧ u.readMem 0x80200 8 = leBytes 8 (2 ^ 64 - 1)) := by decide +kernel
/-- Clocks of a core on which a grid is stopped; a warp with forty reorder-buffer entries occupied. -/
def ticking : State := { heldGrid with agenda := [.clocks 0 7] }
def busyWarp : State := withWarp fun w => { w with rob := List.replicate 40 ⟨[0x20], false, false, false, none⟩, stint := none }
theorem wit_clocks : ticking.agenda = .clocks 0 7 :: [] ∧ ticking.frozen = false ∧ ticking.inReplay = false
    ∧ ticking.gridStopped (ticking.wgAt 0).seq = true ∧ busyWarp.readyIn 0 0 = [] ∧ ready2.readyIn 0 0 ≠ [] := by decide +kernel
/-- A draining workgroup whose JOIN is done, and a saved LAUNCH on a full queue behind which an entry waits. -/
def fullLaunch : State := (resumable.setWg { resumable.wg with launchQ := [entry0, entry0, entry0, entry0] }).setWarp
  { resumable.warp with run := .launch entry0 0x400100, trapQ := [event] }
theorem wit_resume_launch : draining.wakes (draining.wgAt 0) (draining.warpAt 0) = true ∧ 0 ∈ (draining.wgAt 0).keys 0
    ∧ (fullLaunch.warpAt 0).run = .launch entry0 0x400100 ∧ 4 ≤ (fullLaunch.wgAt 0).launchQ.length ∧ (fullLaunch.warpAt 0).trapQ ≠ []
    ∧ (fullLaunch.resumable 1).map Prod.fst = some 0 ∧ (fullLaunch.findCore 0 (fullLaunch.wgAt 0).fp).isSome = true
    ∧ (firstGrid (fullLaunch.waiting 0)).map Prod.fst = some 1 := by decide +kernel

/-! The fabric, the host and the machine. -/

/-- Port 2 is frozen with a command for the object at 0x400 of core 0; one of an unmapped page; images that boot. -/
def heldPort : State := { exported with portsFrozen := [2], portHeld := [⟨2, 0, 0x400, 8⟩] }
def farEntry : State := { exported with exportTable := Tab.putN 0 72 (leBytes 8 0x300000) exported.exportTable }
theorem wit_port : heldPort.portHeld.filter (fun x => x.port = unitNo 0x5402) = [⟨2, 0, 0x400, 8⟩] ∧ unitKind 0x5402 = 5
    ∧ 2 ∈ heldPort.portsFrozen ∧ (heldPort.coreAt 0).latent = []
    ∧ (∀ h ∈ exported.portHeld, h.port ≠ unitNo 0x5402)
    ∧ farEntry.translateUnits noCore 0 ⟨0x300010, 1, [.engWrite], 4⟩ (0x300010 / 2 ^ 19) 1 [] = .bad 0x300000
    ∧ State.reset.booted = false ∧ State.reset.bootFailed = false ∧ isMaster 0x2000 = true := by decide +kernel
/-- BAR2's window: near, capacity, and one that names neither; the last 4 bytes of the window. -/
theorem wit_bar2 : State.reset.hostDead = false ∧ (State.reset.bar2win.toNat / 2 ^ 62 = 0)
    ∧ ({ State.reset with bar2win := 0x4000000000000000 } : State).bar2win.toNat / 2 ^ 62 = 1
    ∧ 2 ≤ ({ State.reset with bar2win := 0x8000000000000000 } : State).bar2win.toNat / 2 ^ 62
    ∧ min (2 ^ 32 - (2 ^ 32 - 4)) (tierLimit {} 0 - (2 ^ 32 - 4)) = 4 := by decide
/-- WITHDRAW at the head of queue 0 while a pre-emption of that queue is unreported, with room for two statuses and without. -/
def withdrawing (shead stail : Word) : State :=
  let s := hosted (head 5 [])
  (s.setHostqAt 0 { s.hostqAt 0 with shead := shead, stail := stail }).setCtxAt 0
    { demo.ctx with preempt := some { queue := 0, buf := 0x4000, size := 544 } }
theorem wit_withdraw : headIs (withdrawing 0 0) 5 8 8 0 = true ∧ (withdrawing 0 0).statusRoom 0 2 = true
    ∧ headIs (withdrawing 0 15) 5 8 8 0 = true ∧ (withdrawing 0 15).statusRoom 0 2 = false ∧ ((withdrawing 0 15).hostqAt 0).enabled = true
    ∧ ((withdrawing 0 0).ctxAt 0).preempt = some { queue := 0, buf := 0x4000, size := 544 } := by decide +kernel
/-- A context in replay capture mode: an agenda with a boundary input and without, and an input that is supplied. -/
def replaying (a : List Pick) (l : List (Nat × Pick)) : State :=
  { (withCtx fun c => { c with replay := true }) with agenda := a, supply := l }
theorem wit_replay : (replaying [.warp 0] []).inReplay = true ∧ (Pick.warp 0).outside = false ∧ (Pick.hostWrite 0 [1]).outside = true
    ∧ (replaying [] [(0, .hostWrite 0 [1])]).inReplay = true ∧ (0 : Nat) ≤ (replaying [] []).moves
    ∧ (replaying [] [(1, .hostWrite 0 [1])]).moves < 1 := by decide +kernel
/-- The words that a warp kept while it waited, and a warp whose stint has ended with instructions dispatched. -/
def kept : State := { (withWarp fun w => { w with fetched := [0x20], stint := none, rob := [⟨[0x20], true, false, false, none⟩] }) with agenda := [.warp 0] }
theorem wit_kept : kept.agenda = .warp 0 :: [] ∧ kept.inReplay = false ∧ kept.frozen = false ∧ (kept.wgAt 0).place = .resident
    ∧ (kept.warpAt 0).run = .running ∧ (kept.warpAt 0).sleep = none ∧ (kept.warpAt 0).rob ≠ [] ∧ (kept.warpAt 0).notice = none
    ∧ (kept.warpAt 0).raised = none ∧ (kept.warpAt 0).trapQ = [] ∧ (kept.warpAt 0).fetched = [0x20]
    ∧ placed.inReplay = false ∧ (placed.warpAt 0).fetched = [] ∧ (placed.warpAt 0).raised = none
    ∧ (match decode kept.dctx [0x20] with | .ok (.exitC _) => true | _ => false) = true
    ∧ (match decode kept.dctx [3] with | .illegalOperand => true | _ => false) = false
    ∧ decode kept.dctx [0x00010301, 0x00000281] = .illegalOperand := by decide +kernel

/-! Witnesses of the clauses that say where an instruction faults or waits. -/

/-- What patterns stand for: a NaN, an infinity, zeros, ordinary and subnormal numbers; and a special function's value. -/
theorem wit_datum : F32.datum false 0x7FC00000 = .nan ∧ F32.datum false 0xFF800000 = .inf true ∧ F32.datum false 0x80000000 = .num true (-0)
    ∧ F32.datum false 0x3F800000 = .num false 1 ∧ F32.datum false 0xC0000000 = .num true (-2)
    ∧ F32.datum false 0x00400000 = .num false (2 ^ (-127 : ℤ))
    ∧ (Datum.num false 4).special .rsq = some (.num false (1 / Real.sqrt 4)) := by
  refine ⟨?_, ?_, ?_, ?_, ?_, ?_, ?_⟩
  all_goals norm_num [FFmt.datum, FFmt.magnitude, F32, FFmt.signW, FFmt.maxB, FFmt.inf, Datum.special, zpow_neg, zpow_ofNat]
theorem wit_patterns : 0xFF800000 < 2 * F32.signW ∧ 0x3C00 < 2 * F16.signW ∧ 0x3F80 < 2 * BF16.signW
    ∧ Fmt.f16x2.isPair = true ∧ Fmt.bf16x2.isPair = true ∧ Fmt.i4.isPair = false ∧ (0x01000000 : Word).getLsbD 24 = true := by decide
/-- Instructions of each family that an empty exec turns into no effect; BULK and BCPY under U with a source that is not UNI. -/
theorem wit_empty_rows : ([.cpy (fields 1 .zero .zero .zero) 0 false true, .bulk (fields 1 .zero .zero .zero) .xms false false 0,
    .mmaC ⟨false, false, 2, 0, 0⟩, .vidxC ⟨false, false, 2, 0, 0⟩, .setNew (fields 1 .zero .zero .zero) false,
    .setUnion (fields 1 .zero .zero .zero), .actld (fields 0 .zero .zero .zero) true, .bnkCas (fields 3 .zero .zero .zero) false] :
      List Instr).all (fun i => (idleRow i).isSome) = true := by decide +kernel
theorem wit_uniform_bank :
    (uniformRow nonUni.warp 64 (.bcpy ⟨.e0, false, true, 0, .zero, .vec 1 .ident, .imm 64⟩ 0 0)).map
      (fun p => (p.1.u, firstNonUni nonUni.warp p.2)) = some (true, some 1)
    ∧ (uniformRow nonUni.warp 64 (.bulk ⟨.e0, false, true, 0, .vec 1 .ident, .imm 64, .zero⟩ .add false false 0)).map
      (fun p => (p.1.u, firstNonUni nonUni.warp p.2)) = some (true, some 0) := by decide +kernel
theorem wit_saturate : firstNonUni demo.warp (srcsOf [.vec 1 .ident, .vec 2 .ident]) = none
    ∧ 2 ^ 31 - 1 < (0x7FFFFFFF : Word).toInt - (0xFFFFFFFF : Word).toInt := by decide +kernel
/-- A BULK of 12 bytes over its object and one over its pairs; a SHAPE record that is poisoned, one with a row before offset 0, and
one with a reserved field. -/
def rowBack : List Byte := leBytes 2 4 ++ leBytes 2 2 ++ leBytes 2 1 ++ leBytes 2 0 ++ leBytes 4 (2 ^ 32 - 64) ++ leBytes 4 4
def badRecord : List Byte := leBytes 2 4 ++ leBytes 2 2 ++ leBytes 2 1 ++ leBytes 2 1 ++ leBytes 4 64 ++ leBytes 4 4
theorem wit_bulk_shape_faults : (overlaps 0x400 16 0x3F8 12 = true ∧ overlaps 0x3F8 12 0x400 8 = true)
    ∧ (shaped.setCore { shaped.core with poison := [0x20] }).locPoisoned shaped.wg 0x200 16 = true
    ∧ (shapeRecord 0 rowBack).1.lo < 0 ∧ (shapeRecord 0 badRecord).2 = false ∧ demo.wg.alloc < 0x80000
    ∧ shaped.core.latent = [] ∧ shaped.width = 64 := by decide +kernel
/-- ACTLD of a misaligned record, of one past the allocation, of a poisoned one, and of one with a reserved byte. -/
theorem wit_table_faults : (8 % 16 ≠ 0 ∧ tabled.wg.alloc < 0x80000 + 32)
    ∧ (tabled.setCore { tabled.core with poison := [0] }).locPoisoned tabled.wg 0 32 = true
    ∧ (tabled.setCore { tabled.core with poison := [2] }).locPoisoned tabled.wg 0 32 = false
    ∧ (tabled.setCore { tabled.core with poison := [2] }).locPoisoned tabled.wg 32 8 = true
    ∧ leNat (tabled.padRead 0 16 2) = 1 ∧ ¬(∀ i, 18 ≤ i → i < 32 → leNat ((tabled.padWrite 0 20 [1]).padRead 0 i 1) = 0) := by
  refine ⟨by decide +kernel, by decide +kernel, by decide +kernel, by decide +kernel, by decide +kernel, fun h => ?_⟩
  exact absurd (h 20 (by decide) (by decide)) (by decide +kernel)
/-- R184: another warp of the core has dispatched an ACT on bank 0, or waits with an ACTLD of it. -/
def sharing (w : Warp) : State := { (two.padWrite 0 0 (tabled.padRead 0 0 40)).setWarpAt 1 { demo.warp with rob := w.rob, stall := w.stall }
  with nextCmd := 5 }
def actBefore : State := sharing { rob := [⟨[0x10], true, false, false, some (.act false 5)⟩] }
def actldBefore : State := sharing { stall := some (.sepia false 4) }
theorem wit_sepia_waits : actBefore.actsInFlight false (actBefore.actldNo false) = true ∧ actBefore.actsInFlight true 5 = false
    ∧ actldBefore.actHeld false = true ∧ actldBefore.actHeld true = false := by decide +kernel
theorem test_sepia_waits : let t := after (.actld (fields 0 (.imm 0) .zero .zero) false) actBefore
    (t.warp.stall, t.nextCmd, t.core.sepia0.loaded) = (some (.sepia false 5), 6, false)
    ∧ (after (.act (fields 3 (.vec 1 .ident) .zero .zero) false .f32) actldBefore).warp.stall = some .act := by decide +kernel
/-- A full queue; an index descriptor past the allocation, a poisoned one and a misaligned one; a mask above 255. -/
def fullQueue : State := withCore fun x => { x with queues := [(2, List.replicate 16 copyIn)] }
theorem wit_copy_faults : 16 ≤ (fullQueue.queue 0 2).length ∧ demo.wg.alloc < 0x80000 + 64 ∧ objectOk demo.wg 0x200 [] = true
    ∧ (gathered.setCore { gathered.core with poison := [0x10] }).locPoisoned gathered.wg 0x100 64 = true
    ∧ (idxDesc (gathered.padRead 0 0x104 64)).1.locs.all (fun p => decide (p.1 + p.2 ≤ gathered.wg.alloc)) = true
    ∧ 0x104 % 16 ≠ 0 ∧ 256 ≤ 0x100 ∧ 0x208 % 16 ≠ 0 ∧ (0 : Nat) < 2 ^ 47
    ∧ (indexRow (.scatRed (fields 0 (.imm 0x104) (.imm 0x200) .zero) 1)).isSome = true := by decide +kernel
/-- A number above 3, two tiles in use, a descriptor past the declared count, a shape of a wrong stationary tile, a base past 30 bits. -/
def busyTiles : State := withWg fun g => { g with
  tiles := [(3, { tile64 with state := .filling }), (4, { tile64 with state := .empty }), (5, tileOf true .m7 0x200 7)] }
theorem wit_tile_faults : 3 < (4 : Nat) ∧ busyTiles.wg.fp.tiles ≤ 300 ∧ busyTiles.tileFree 3 = false ∧ 3 < busyTiles.wg.fp.tiles
    ∧ ((2 ^ 10 + 7).testBit 10 = true ∧ (2 ^ 10 + 7) % 64 + 1 ≠ 32 ∧ (2 ^ 10 + 7) % 64 + 1 ≠ 64) ∧ 2 ^ 30 ≤ 2 ^ 31
    ∧ busyTiles.wg.alloc < 4 * 0x80000 := by decide +kernel
/-- A full matrix queue; tiles that fill, that are not described, that are EMPTY, and that are not stationary; an accumulator past
the declared count, and ACCL past the allocation. -/
def fullMatrix : State := tiled.setCore { tiled.core with matq := List.replicate 8 ⟨2, 0, 0, 2, .accz 3, false⟩ }
theorem wit_matrix_faults : 8 ≤ fullMatrix.core.matq.length ∧ entersMatrix (.accz (fields 2 .zero .zero .zero)) = true
    ∧ (mmaRow (.mmaSp (fields 2 (.vec 5 .ident) (.vec 4 .ident) .zero))).map (fun p => (p.2.1, p.2.2)) = some (5, 4)
    ∧ (busyTiles.wg.tile 3).busy = true ∧ (busyTiles.wg.tile 6).v = false ∧ (busyTiles.wg.tile 4).state = .empty
    ∧ (busyTiles.wg.tile 4).v = true ∧ (busyTiles.wg.tile 4).busy = false ∧ (busyTiles.wg.tile 5).layout = false
    ∧ (operands.wg.tile 4).layout = true ∧ demo.wg.fp.accs ≤ 200
    ∧ (ownedRow demo.width demo.warp.exec 1 ∧ ∀ q, ownedRow demo.width demo.warp.exec q → q ≤ 1)
    ∧ demo.wg.alloc < 0x80000 + 256 * 1 + 256 ∧ fullMatrix.warp.stall = none ∧ 2 < matrix.wg.fp.accs := by
  have h : ∀ q, q < 64 → demo.warp.exec.getLsbD (q % demo.width) = true → q ≤ 1 := by decide +kernel
  refine ⟨?_, ?_, ?_, ?_, ?_, ?_, ?_, ?_, ?_, ?_, ?_, ⟨⟨by decide, by decide +kernel⟩, fun q hq => h q hq.1 hq.2⟩, ?_, ?_, ?_⟩ <;>
    decide +kernel
/-- Set management that fails: no free entry, too few granules, a pane or an index past its range, universes that differ, and a
destination that the warp's own earlier command still writes. -/
def noEntry : State := sets.setCtxAt 0 { sets.ctx with shtn := 2 }
def noGranules : State := sets.setCtxAt 0 { sets.ctx with arenag := 4 }
def mixed : State := sets.setCtxAt 0 { sets.ctx with sets := [(0, sets.ctx.set 0), (1, { sets.ctx.set 1 with val := { small with u := 200 } })] }
theorem wit_management_faults : (∀ j, j < noEntry.ctx.shtn → (noEntry.ctx.set j).v = true) ∧ noGranules.ctx.freeGranules < 5
    ∧ maxPanes (sets.ctx.set 0).val.u ≤ 1 ∧ 20 < (21 : Nat) ∧ (mixed.ctx.val 0x01000001).u ≠ (mixed.ctx.val 0x01000000).u
    ∧ estUsesC .union = true ∧ waitingSet.ownBusy 1 = true ∧ waitingSet.ctx.stale 0x01000001 = false
    ∧ sets.ctx.stale 0x01000000 = false ∧ (sets.ctx.set 0).lost = false := by decide +kernel
/-- What comes next at a stint boundary: a warp between stints, and one whose oldest dispatched instruction begins a stint; of one
whose oldest does not, it does not. -/
def robbed (first : Bool) : State := asyncHead.setWarp { asyncHead.warp with rob := [⟨[0x20], first, false, false, none⟩], stint := some 1 }
theorem atStintStart_of {w : Warp} (h : (w.rob = [] ∧ (w.stint = none ∨ w.stint = some 0)) ∨ (w.rob.map RobEntry.first).head? = some true) :
    w.atStintStart := by
  unfold Warp.atStintStart
  split <;> simp_all
theorem wit_stint_start : (asyncHead.warpAt 0).atStintStart ∧ (discarding.warpAt 0).atStintStart ∧ ((robbed true).warpAt 0).atStintStart
    ∧ ¬((robbed false).warpAt 0).atStintStart := by
  refine ⟨atStintStart_of (by decide +kernel), atStintStart_of (by decide +kernel), atStintStart_of (by decide +kernel), fun h => ?_⟩
  have he : ((robbed false).warpAt 0).rob = [⟨[0x20], false, false, false, none⟩] := by decide +kernel
  simp [Warp.atStintStart, he] at h
theorem wit_deliverable_boundary : (robbed true).deliverable 0 0x28 ∧ (robbed true).readVector 0 0x28 = .ok 0x400401 :=
  ⟨deliverable_of (by decide +kernel), by decide +kernel⟩
/-- A bound warp with one NOP dispatched, and another at 0x400004 behind it; one that executes the dispatched one; and one that waits
at LDF with its word. -/
def ahead : State := { (withWarp fun w => { w with rob := [⟨[0x10], true, false, false, none⟩], stint := some 1 }).writeMem 0x80000
  (leBytes 4 0x10 ++ leBytes 4 0x10) with agenda := [.dispatched 0] }
theorem wit_dispatched : ahead.agenda = .dispatched 0 :: [] ∧ ahead.inReplay = false ∧ ahead.frozen = false
    ∧ (ahead.wgAt 0).place = .resident ∧ (ahead.warpAt 0).run = .running ∧ (ahead.warpAt 0).sleep = none ∧ (ahead.warpAt 0).raised = none
    ∧ (ahead.warpAt 0).stint = some 1 ∧ (ahead.warpAt 0).rob = [⟨[0x10], true, false, false, none⟩]
    ∧ (match ({ ahead with agenda := [], cur := 0 } : State).fetch (0x400000 + BitVec.ofNat 64 4) with | .ok l => l | _ => []) = [0x10]
    ∧ decode ahead.dctx [0x10] = .ok (.nopC ⟨false, false, 0, 0, 0⟩) ∧ alone (.nopC ⟨false, false, 0, 0, 0⟩) = false
    ∧ (∀ e ∈ (ahead.warpAt 0).rob, e.sepia ≠ some .load) ∧ alone (.mmaC ⟨false, false, 0, 0, 0⟩) = true
    ∧ (ahead.warpAt 0).stall = none := by decide +kernel
/-- ACCR (R210): the elements reach the warp, and then the lanes of v3; a reader of v3 waits, and an instruction that names no
register of its pair does not. -/
theorem test_accr : (after (.matrixOperationComplete 0 0) reading).warp.stall = some (.accr 7 (some [0x11, 0x22]))
    ∧ (List.range 2).map (fun l => (readV (after (.accr (fields 3 (.vec 2 .ident) .zero .zero) 1) readDone).warp 3).lane l) = [0x11, 0x22] := by
  decide +kernel
theorem test_accr_reader : namesPair 3 (.fadd (fields 4 (.vec 3 .ident) (.vec 5 .ident) .zero) .f32) = true
    ∧ namesPair 3 (.fadd (fields 4 (.vec 6 .ident) (.vec 5 .ident) .zero) .f32) = false ∧ namesPair 3 (.addC ⟨false, false, 5, 6, 3⟩) = true := by
  decide +kernel
/-- An ACCR that waits for a full queue is tried again once the queue has room, and then waits for its value. -/
def behind : State := tiled.setWarp { tiled.warp with stall := some .matrix, fetched := [0x00051D31, 0x03800000] }
theorem test_accr_retry : behind.retryClears 0 = true
    ∧ (match warpStep 0 behind with | .next t => t.warp.stall | _ => none) = some (.accr behind.nextCmd none) := by decide +kernel
theorem wit_next_words : (ahead.warpAt 0).nextWords [0x10] ∧ (kept.warpAt 0).nextWords [0x20] := by
  unfold Warp.nextWords
  exact ⟨by decide +kernel, by decide +kernel⟩
/-- A placed slot's warps, of which one is ready and one has dispatched a wait. -/
def blockedWarp : State := withWarp fun w => { w with rob := [⟨[0x20], true, true, false, none⟩] }
theorem wit_ready : demo.warp.ready = true ∧ blockedWarp.warp.ready = false ∧ (blockedWarp.warpAt 0).run = .running := by decide +kernel
/-- Stopped warps whose tpc is misaligned, and not canonical; a wildcard INDEX names no warp. -/
def crooked (pc : DWord) : State := debugged.setWarp { debugged.warp with tpc := pc }
theorem wit_detach : ((crooked 0x400002).warpAt 0).stopped = true ∧ ((crooked 0x400002).warpAt 0).tpc.toNat % 4 ≠ 0
    ∧ ((crooked 0x0080000000000000).warpAt 0).tpc.toNat % 4 = 0 ∧ canonical ((crooked 0x0080000000000000).warpAt 0).tpc = false
    ∧ (debugged.wgAt 0).dead = false ∧ (debugged.wgAt 0).onCore = true ∧ Tab.wf {} debugged.wgs = true
    ∧ debugged.wgs.all (fun p => decide (p.2.fp.warps ≤ 32)) = true
    ∧ (let b := padTo 64 (head 11 (leBytes 8 0x4000 ++ leBytes 8 1 ++ leBytes 4 (2 ^ 32 - 1)))
       qf b 24 4 = 2 ^ 32 - 1 ∧ debugged.stoppedWarp 0 b = none) := by decide +kernel
/-- A warp that is reset to execute its LDF afresh, and one whose JOIN's word is. -/
theorem wit_afresh : (withWarp fun w => { w with run := .ldf }).warp.run = .ldf
    ∧ (withWarp fun w => { w with run := .ldf, fetched := [0x20] }).warp.fetched ≠ [] := by decide +kernel

end Sys2Proof.Tests
end

section
/-! PROOFS. The machine's two-operand functions as R169, R170 and R173 write them, for any width. -/

namespace Sys2Proof.Machine

theorem sshiftRight_eq_ofInt_div {n : Nat} (a : BitVec n) (k : Nat) : a.sshiftRight k = BitVec.ofInt n (a.toInt / 2 ^ k) := by
  rw [BitVec.sshiftRight, Int.shiftRight_eq_div_pow, Nat.cast_pow, Nat.cast_ofNat]
theorem rotateLeft_mod {n : Nat} (a : BitVec n) (k : Nat) :
    a.rotateLeft (k % n) = a <<< (k % n) ||| a >>> (n - k % n) := by
  rw [BitVec.rotateLeft_def, Nat.mod_mod]

/-- Between different patterns < and ≤ agree: MIN and MAX may test either. -/
theorem slt_iff_le_of_ne {n : Nat} {a b : BitVec n} (h : a ≠ b) : a.slt b = true ↔ a.toInt ≤ b.toInt := by
  have hne : a.toInt ≠ b.toInt := fun c => h (BitVec.toInt_inj.1 c)
  rw [BitVec.slt_iff_toInt_lt]
  omega
theorem ult_iff_le_of_ne {n : Nat} {a b : BitVec n} (h : a ≠ b) : a.ult b = true ↔ a.toNat ≤ b.toNat := by
  have hne : a.toNat ≠ b.toNat := fun c => h (BitVec.toNat_inj.1 c)
  rw [BitVec.ult_iff_toNat_lt]
  omega
theorem minS_eq {n : Nat} (a b : BitVec n) : minS a b = if a.toInt ≤ b.toInt then a else b := by
  by_cases h : a = b
  · simp [minS, h]
  · simp only [minS, slt_iff_le_of_ne h]
theorem maxS_eq {n : Nat} (a b : BitVec n) : maxS a b = if a.toInt ≤ b.toInt then b else a := by
  by_cases h : a = b
  · simp [maxS, h]
  · simp only [maxS, slt_iff_le_of_ne h]
theorem minU_eq {n : Nat} (a b : BitVec n) : minU a b = if a.toNat ≤ b.toNat then a else b := by
  by_cases h : a = b
  · simp [minU, h]
  · simp only [minU, ult_iff_le_of_ne h]
theorem maxU_eq {n : Nat} (a b : BitVec n) : maxU a b = if a.toNat ≤ b.toNat then b else a := by
  by_cases h : a = b
  · simp [maxU, h]
  · simp only [maxU, ult_iff_le_of_ne h]

/-- The quotient wraps where the most negative number is divided by −1. -/
theorem sdiv_eq_ofInt {n : Nat} (a b : BitVec n) : a.sdiv b = BitVec.ofInt n (a.toInt.tdiv b.toInt) := by
  rw [← BitVec.toInt_inj, BitVec.toInt_sdiv, BitVec.toInt_ofInt]
theorem srem_eq_ofInt {n : Nat} (a b : BitVec n) : a.srem b = BitVec.ofInt n (a.toInt.tmod b.toInt) := by
  rw [← BitVec.toInt_srem, BitVec.ofInt_toInt]
theorem sdivT_eq {n : Nat} (a b : BitVec n) : sdivT a b = if b = 0 then -1 else BitVec.ofInt n (a.toInt.tdiv b.toInt) := by
  rw [sdivT, sdiv_eq_ofInt, ← BitVec.neg_one_eq_allOnes]; rfl
theorem udivT_eq {n : Nat} (a b : BitVec n) : udivT a b = if b = 0 then -1 else BitVec.ofNat n (a.toNat / b.toNat) := by
  have hq : a.udiv b = BitVec.ofNat n (a.toNat / b.toNat) := by
    rw [← BitVec.toNat_udiv, BitVec.ofNat_toNat, BitVec.setWidth_eq]; rfl
  rw [udivT, hq, ← BitVec.neg_one_eq_allOnes]; rfl
theorem sremT_eq {n : Nat} (a b : BitVec n) : sremT a b = if b = 0 then a else BitVec.ofInt n (a.toInt.tmod b.toInt) := by
  rw [sremT, srem_eq_ofInt]
theorem uremT_eq {n : Nat} (a b : BitVec n) : uremT a b = if b = 0 then a else BitVec.ofNat n (a.toNat % b.toNat) := by
  have hr : a.umod b = BitVec.ofNat n (a.toNat % b.toNat) := by
    rw [← BitVec.toNat_umod, BitVec.ofNat_toNat, BitVec.setWidth_eq]; rfl
  rw [uremT, hr]

/-- The relations of the scalar compares as a choice between 1 and 0. -/
theorem bool64_beq (a b : DWord) : bool64 (a == b) = if a = b then 1 else 0 := by simp [bool64]
theorem bool64_bne (a b : DWord) : bool64 (a != b) = if a = b then 0 else 1 := by simp [bool64]
theorem bool64_slt (a b : DWord) : bool64 (a.slt b) = if a.toInt < b.toInt then 1 else 0 := by
  simp only [bool64, BitVec.slt_iff_toInt_lt]
theorem bool64_ult (a b : DWord) : bool64 (a.ult b) = if a.toNat < b.toNat then 1 else 0 := by
  simp only [bool64, BitVec.ult_iff_toNat_lt]
theorem bool64_sle (a b : DWord) : bool64 (a.sle b) = if a.toInt ≤ b.toInt then 1 else 0 := by
  simp only [bool64, BitVec.sle_iff_toInt_le]
theorem bool64_ule (a b : DWord) : bool64 (a.ule b) = if a.toNat ≤ b.toNat then 1 else 0 := by
  simp only [bool64, BitVec.ule_iff_toNat_le]

end Sys2Proof.Machine
end

section
/-! PROOFS. The scalar and the mask instructions (R165, R169 to R172). -/

namespace Sys2Proof.Machine

/-! Writing exec, and saving it first (R165, R171). -/

/-- exec apart, writing it leaves the warp as it was. -/
theorem setExec_restore (w : Warp) (width : Nat) (v : DWord) : { w.setExec width v with exec := w.exec } = w := rfl
/-- A write to exec drops the bits above W, so cutting them before it changes nothing. -/
theorem setExec_and_wmask (w : Warp) (width : Nat) (v : DWord) : w.setExec width (v &&& wmask width) = w.setExec width v := by
  simp [Warp.setExec, BitVec.and_assoc]
/-- The warp with exec saved in register `d`, if the instruction saves it. -/
def Warp.saving (w : Warp) (saves : Bool) (d : Reg) : Warp := if saves then writeS w d w.exec else w
theorem saving_fields (w : Warp) (b : Bool) (d : Reg) :
    (w.saving b d).pc = w.pc ∧ (w.saving b d).stint = w.stint ∧ (w.saving b d).notice = w.notice ∧ (w.saving b d).rob = w.rob
      ∧ (w.saving b d).exec = w.exec := by
  cases b <;> simp [Warp.saving]
theorem saving_only (w : Warp) (b : Bool) (d : Reg) : Warp.onlyScalar d w (w.saving b d) := by
  cases b
  · exact ⟨rfl, fun _ _ => rfl, by split <;> rfl⟩
  · exact writeS_only w d w.exec
theorem saving_reads (w : Warp) (b : Bool) (d : Reg) :
    if b then (w.saving b d).gives d w.exec else readS (w.saving b d) d = readS w d := by
  cases b
  · rfl
  · exact writeS_gives w d w.exec

/-! Instructions that end by writing registers. -/

/-- A scalar result: the instruction completes, and `d` alone receives it. -/
theorem done_writeS_spec (o : Opd) (v : DWord) (s : State) :
    Completes o (writeS s.warp o.d v) s (s.done o (writeS s.warp o.d v))
      ∧ Warp.onlyScalar o.d s.warp (writeS s.warp o.d v) ∧ (writeS s.warp o.d v).gives o.d v := by
  obtain ⟨hpc, hstint, hnotice, -, -, hrob, -, -⟩ := writeS_fields s.warp o.d v
  exact ⟨done_completes o _ s hpc hstint hnotice hrob, writeS_only _ _ _, writeS_gives _ _ _⟩
/-- A mask instruction: it completes, exec receives `v` cut to W bits, and `d` alone may receive the exec of before. -/
theorem done_setExec_spec (o : Opd) (b : Bool) (v : DWord) (s : State) :
    let w' := (s.warp.saving b o.d).setExec s.width v
    Completes o w' s (s.done o w') ∧ w'.exec = v &&& s.wm ∧ Warp.onlyScalar o.d s.warp { w' with exec := s.warp.exec }
      ∧ (if b then w'.gives o.d s.warp.exec else readS w' o.d = readS s.warp o.d) := by
  obtain ⟨hpc, hstint, hnotice, hrob, hexec⟩ := saving_fields s.warp b o.d
  refine ⟨done_completes o _ s hpc hstint hnotice hrob, rfl, ?_, saving_reads s.warp b o.d⟩
  rw [← hexec, setExec_restore]
  exact saving_only s.warp b o.d

/-! What the tables' instructions do. -/

/-- Each scalar instruction writes the table's result to S(D) and goes on. -/
theorem exec_of_scalarRow {i : Instr} {o : Opd} {g : DWord → DWord → DWord → DWord} (s : State)
    (h : scalarRow i = some (o, g)) :
    exec i s = .next (s.done o (writeS s.warp o.d (g (sval s.warp o.a) (sval s.warp o.b) (sval s.warp o.c)))) := by
  unfold scalarRow at h
  split at h <;> cases h
  -- Every row writes S(D): what is left is that the value it writes is the table's.
  all_goals
    refine congrArg (fun v => Host.Outcome.next (s.done _ (writeS s.warp _ v))) ?_
    simp only [shift64, sshiftRight_eq_ofInt_div, rotateLeft_mod, mulHigh, mulHighU, minS_eq, maxS_eq, minU_eq, maxU_eq, sdivT_eq,
      udivT_eq, sremT_eq, uremT_eq, bool64_beq, bool64_bne, bool64_slt, bool64_ult, bool64_sle, bool64_ule, id_eq, ne_eq, ite_not]

/-- Settles O1: every row ends by writing its result to S(D). -/
theorem scalarResults : Obligations.ScalarResults := by
  intro i o g s h
  exact ⟨_, _, exec_of_scalarRow s h, done_writeS_spec o _ s⟩

/-- MASK.LOOP keeps the lanes that go on, and takes D's once none of the W does. -/
theorem maskLoop_eq (o : Opd) (s : State) :
    maskLoop o s = s.done o (s.warp.setExec s.width
      (if s.warp.exec &&& sval s.warp o.a &&& s.wm = 0 then readS s.warp o.d else s.warp.exec &&& sval s.warp o.a)) := by
  unfold maskLoop
  by_cases h : s.warp.exec &&& sval s.warp o.a &&& s.wm = 0
  · simp [h]
  · simp only [h, ne_eq, not_false_eq_true, if_true, if_false]
    rw [State.wm, setExec_and_wmask]
/-- Each mask instruction writes exec as the table says, after saving it where the table says so, and goes on. -/
theorem exec_of_maskRow {i : Instr} {o : Opd} {b : Bool} {g : DWord → DWord → DWord → DWord → DWord} (s : State)
    (h : maskRow i = some (o, b, g)) :
    exec i s = .next (s.done o ((s.warp.saving b o.d).setExec s.width
      (g s.wm s.warp.exec (readS s.warp o.d) (sval s.warp o.a)))) := by
  unfold maskRow at h
  split at h <;> cases h
  case h_13 f | h_14 f => exact congrArg Host.Outcome.next (maskLoop_eq _ s)
  all_goals rfl
/-- EXRD writes exec to S(D). -/
theorem exec_of_execReadRow {i : Instr} {o : Opd} (s : State) (h : execReadRow i = some o) :
    exec i s = .next (s.done o (writeS s.warp o.d s.warp.exec)) := by
  unfold execReadRow at h
  split at h <;> cases h
  all_goals rfl

/-- Settles O2: a mask instruction ends by writing exec, and EXRD by writing S(D). -/
theorem maskResults : Obligations.MaskResults := by
  refine ⟨fun i o b g s h => ?_, fun i o s h => ?_⟩
  · exact ⟨_, _, exec_of_maskRow s h, done_setExec_spec o b _ s⟩
  · exact ⟨_, _, exec_of_execReadRow s h, done_writeS_spec o _ s⟩

end Sys2Proof.Machine
end

section
/-! PROOFS. SEL, VIDX, VAFF and VTAG (R160, R162, R168, R174, R175). -/

namespace Sys2Proof.Machine

/-- A vector result: the instruction completes, and `d` alone differs. -/
theorem done_vput_spec (o : Opd) (full : VReg) (f : Nat → Word) (s : State) :
    let w' := s.warp.vput s.width o.u o.d full f
    Completes o w' s (s.done o w') ∧ Warp.onlyVector [o.d] s.warp w' := by
  obtain ⟨hpc, hstint, hnotice, -, -, hrob, -, -⟩ :=
    writeV_fields s.warp o.d (vputReg s.width s.warp.exec o.u full f (readV s.warp o.d))
  exact ⟨done_completes o _ s hpc hstint hnotice hrob, writeV_only _ _ _⟩
/-- The tag of a result written under a non-empty exec (R162). -/
theorem vputReg_tag (width : Nat) (exec : DWord) (u : Bool) (full : VReg) (f : Nat → Word) (old : VReg) (h : exec ≠ 0) :
    (vputReg width exec u full f old).tag = if exec = wmask width then (if u then .uni else full.tag) else .gen := by
  unfold vputReg
  rw [if_neg h]
  by_cases hm : exec = wmask width
  · rw [if_neg (not_not.2 hm), if_pos hm]
    cases u <;> rfl
  · rw [if_pos hm, if_neg hm]
    rfl
/-- Every lane written without U: the register is `full`. -/
theorem vputReg_full (width : Nat) (exec : DWord) (full : VReg) (f : Nat → Word) (old : VReg) (h : exec ≠ 0)
    (hm : exec = wmask width) : vputReg width exec false full f old = full := by
  unfold vputReg
  rw [if_neg h, if_neg (not_not.2 hm)]
  rfl
@[simp] theorem readV_vput_same (w : Warp) (width : Nat) (u : Bool) (d : Reg) (full : VReg) (f : Nat → Word) :
    readV (w.vput width u d full f) d = vputReg width w.exec u full f (readV w d) := by
  rw [Warp.vput, readV_writeV, if_pos rfl]

/-- The body of SEL: past the gate of its three sources. -/
theorem exec_sel (f : Ops) (s : State) (h : s.warp.exec ≠ 0)
    (hu : f.u = true → firstNonUni s.warp (srcsOf [f.a, f.b, f.c]) = none) :
    exec (.sel f) s = .next (s.done (opd f) (s.warp.vputGen s.width f.u f.d fun l =>
      if selCond s.warp s.width f.c l then lane32 s.warp s.width f.a l else lane32 s.warp s.width f.b l)) :=
  congrArg Host.Outcome.next (vecGate_body (opd f) (srcsOf [f.a, f.b, f.c]) _ s h hu)
/-- The body of VIDX and VAFF: they name no vector source. -/
theorem exec_of_affineRow {i : Instr} {o : Opd} {b st : Word} (s : State) (h : affineRow s.warp i = some (o, b, st))
    (he : s.warp.exec ≠ 0) :
    exec i s = .next (s.done o (s.warp.vput s.width o.u o.d (.aff b st) (VReg.aff b st).lane)) := by
  unfold affineRow at h
  split at h <;> cases h
  all_goals exact congrArg Host.Outcome.next (vecGate_body _ [] _ s he fun _ => rfl)
theorem tagCode_tag (v : VReg) : tagCode v.tag = tagNumber v := by cases v <;> rfl
/-- The register that VTAG asks about is the one its field A names, in both forms. -/
theorem numOf_of_vtagRow {i : Instr} {o : Opd} {r : Reg} (h : vtagRow i = some (o, r)) : BitVec.ofNat 6 (numOf o.a) = r := by
  unfold vtagRow at h
  split at h <;> cases h
  · rfl
  · exact (BitVec.ofNat_toNat 6 _).trans (BitVec.setWidth_eq _)
/-- VTAG writes its register's tag code to S(D). -/
theorem exec_of_vtagRow {i : Instr} {o : Opd} {r : Reg} (s : State) (h : vtagRow i = some (o, r)) :
    exec i s = .next (s.done o (writeS s.warp o.d (tagNumber (readV s.warp r)))) := by
  rw [← numOf_of_vtagRow h, ← tagCode_tag]
  unfold vtagRow at h
  split at h <;> cases h
  all_goals rfl

/-- Settles O9: SEL and the affine instructions end by writing V(D) under exec, VTAG by writing S(D). -/
theorem selectIndexTag : Obligations.SelectIndexTag := by
  refine ⟨fun f s he hu => ?_, fun i o b st s h he => ?_, fun i o r s h => ?_⟩
  · obtain ⟨hc, ho⟩ := done_vput_spec (opd f) _ _ s
    exact ⟨_, _, exec_sel f s he hu, hc, ho, vputGen_gives _ _ _ _ _⟩
  · obtain ⟨hc, ho⟩ := done_vput_spec o (.aff b st) (VReg.aff b st).lane s
    refine ⟨_, _, exec_of_affineRow s h he, hc, ho, vput_gives _ _ _ _ _ _ fun _ _ _ => rfl, ?_, fun hm hu => ?_⟩
    · rw [readV_vput_same, vputReg_tag _ _ _ _ _ _ he]; rfl
    · rw [readV_vput_same, hu, vputReg_full _ _ _ _ _ he hm]
  · exact ⟨_, _, exec_of_vtagRow s h, done_writeS_spec o _ s⟩

end Sys2Proof.Machine
end

section
/-! PROOFS. System registers and the interrupted warp's registers (R311 to R313). -/

namespace Sys2Proof.Machine

/-- A vector register written whole: the instruction completes, and `d` alone receives it. -/
theorem done_writeV_spec (o : Opd) (v : VReg) (s : State) :
    Completes o (writeV s.warp o.d v) s (s.done o (writeV s.warp o.d v))
      ∧ Warp.onlyVector [o.d] s.warp (writeV s.warp o.d v) ∧ readV (writeV s.warp o.d v) o.d = v := by
  obtain ⟨hpc, hstint, hnotice, -, -, hrob, -, -⟩ := writeV_fields s.warp o.d v
  exact ⟨done_completes o _ s hpc hstint hnotice hrob, writeV_only _ _ _, by rw [readV_writeV, if_pos rfl]⟩

/-! SYSR and SYSW (R312). -/

theorem sysValue_eq_sysReg (r : SysReg) (s : State) : sysValue r s = s.sysReg r := by
  cases r
  case wloc => simp only [sysValue, State.sysReg, Nat.mul_comm]
  all_goals rfl
theorem exec_sysr (f : Ops) (r : SysReg) (s : State) :
    exec (.sysr f r) s = .next (s.done (opd f) (writeS s.warp f.d (s.sysReg r))) := by
  rw [← sysValue_eq_sysReg]; rfl
/-- The machine writes a system register exactly where the value is legal for it. -/
theorem sysWrite_legal {r : SysReg} {width : Nat} {v : DWord} {w : Warp} (h : (sysWritten w width r v).2) :
    sysWrite r width v w = some (sysWritten w width r v).1 := by
  cases r
  case fmode => exact if_pos h
  case tvb =>
    obtain ⟨hcanonical, haligned⟩ := h
    simp [sysWrite, sysWritten, hcanonical, haligned]
  case tpc | texec => rfl
  case clk | wloc | cerr | tqd => exact h.elim
theorem sysWrite_illegal {r : SysReg} {width : Nat} {v : DWord} {w : Warp} (h : ¬(sysWritten w width r v).2) :
    sysWrite r width v w = none := by
  cases r
  case fmode => exact if_neg h
  case tvb => exact if_neg (by simpa [sysWritten] using h)
  case tpc | texec => exact absurd trivial h
  case clk | wloc | cerr | tqd => rfl
/-- A system register's write leaves alone what the end of an instruction reads. -/
theorem sysWritten_fields (w : Warp) (width : Nat) (r : SysReg) (v : DWord) :
    let w' := (sysWritten w width r v).1
    w'.pc = w.pc ∧ w'.stint = w.stint ∧ w'.notice = w.notice ∧ w'.rob = w.rob := by
  cases r <;> exact ⟨rfl, rfl, rfl, rfl⟩
theorem exec_sysw_legal (f : Ops) (r : SysReg) (s : State) (h : (sysWritten s.warp s.width r (sval s.warp f.a)).2) :
    exec (.sysw f r) s = .next (s.done (opd f) (sysWritten s.warp s.width r (sval s.warp f.a)).1) := by
  change Host.Outcome.next (syswOp r (opd f) s) = _
  rw [syswOp, show (opd f).a = f.a from rfl, sysWrite_legal h]
theorem exec_sysw_illegal (f : Ops) (r : SysReg) (s : State) (h : ¬(sysWritten s.warp s.width r (sval s.warp f.a)).2) :
    exec (.sysw f r) s = .next (s.raise 0x03 s.warp.exec s.warp.pc) := by
  change Host.Outcome.next (syswOp r (opd f) s) = _
  rw [syswOp, show (opd f).a = f.a from rfl, sysWrite_illegal h]; rfl

/-! MOVFA and MOVTA (R311). -/

/-- Writing an architectural scalar changes it alone; S(0) reads 0 before and after. -/
theorem archS_setArchS (w : Warp) (i j : Nat) (v : DWord) :
    archS (setArchS w i v) j = if j = i ∧ i ≠ 0 then v else archS w j := by
  unfold setArchS
  by_cases hi : i = 0
  · simp [hi]
  · rw [if_neg hi]
    by_cases hj : j = i
    · simp [archS, hj, hi]
    · simp [archS, hj]
theorem archV_setArchV (w : Warp) (i j : Nat) (v : VReg) :
    archV (setArchV w i v) j = if j = i then v else archV w j := Tab.get_put _ _ _ _ _
theorem done_setArchS_spec (o : Opd) (i : Nat) (v : DWord) (s : State) :
    let w' := setArchS s.warp i v
    Completes o w' s (s.done o w') ∧ w' = { s.warp with s := w'.s } := by
  have hw : setArchS s.warp i v = { s.warp with s := (setArchS s.warp i v).s } := by
    unfold setArchS; split <;> rfl
  exact ⟨done_completes o _ s (by rw [hw]) (by rw [hw]) (by rw [hw]) (by rw [hw]), hw⟩
theorem done_setArchV_spec (o : Opd) (i : Nat) (v : VReg) (s : State) :
    let w' := setArchV s.warp i v
    Completes o w' s (s.done o w') ∧ w' = { s.warp with v := w'.v } :=
  ⟨done_completes o _ s rfl rfl rfl rfl, rfl⟩
/-- The gate of MOVFA and MOVTA: the index is below the kernel's count of its class, or the exception 0x03 names it. -/
theorem archGate_below (cls : Bool) (o : Opd) (k : Nat → State → State) (s : State)
    (h : (sval s.warp o.a).toNat % 2 ^ 32 < if cls then s.wg.fp.sregs else s.wg.fp.vregs) :
    archGate cls o k s = k ((sval s.warp o.a).toNat % 2 ^ 32) s := if_neg (Nat.not_le.2 h)
theorem archGate_above (cls : Bool) (o : Opd) (k : Nat → State → State) (s : State)
    (h : (if cls then s.wg.fp.sregs else s.wg.fp.vregs) ≤ (sval s.warp o.a).toNat % 2 ^ 32) :
    archGate cls o k s = s.raise 0x03 s.warp.exec (BitVec.ofNat 64 ((sval s.warp o.a).toNat % 2 ^ 32)) := if_pos h

section
variable (f : Ops) (s : State)
theorem exec_movfa_scalar (h : (sval s.warp f.a).toNat % 2 ^ 32 < s.wg.fp.sregs) :
    exec (.movfa f true) s =
      .next (s.done (opd f) (writeS s.warp f.d (archS s.warp ((sval s.warp f.a).toNat % 2 ^ 32)))) :=
  congrArg Host.Outcome.next (archGate_below true (opd f) _ s h)
theorem exec_movfa_vector (h : (sval s.warp f.a).toNat % 2 ^ 32 < s.wg.fp.vregs) :
    exec (.movfa f false) s =
      .next (s.done (opd f) (writeV s.warp f.d (archV s.warp ((sval s.warp f.a).toNat % 2 ^ 32)))) :=
  congrArg Host.Outcome.next (archGate_below false (opd f) _ s h)
theorem exec_movta_scalar (h : (sval s.warp f.a).toNat % 2 ^ 32 < s.wg.fp.sregs) :
    exec (.movta f true) s =
      .next (s.done (opd f)
        (setArchS s.warp ((sval s.warp f.a).toNat % 2 ^ 32) (readS s.warp (BitVec.ofNat 6 (numOf f.b))))) :=
  congrArg Host.Outcome.next (archGate_below true (opd f) _ s h)
theorem exec_movta_vector (h : (sval s.warp f.a).toNat % 2 ^ 32 < s.wg.fp.vregs) :
    exec (.movta f false) s =
      .next (s.done (opd f)
        (setArchV s.warp ((sval s.warp f.a).toNat % 2 ^ 32) (readV s.warp (BitVec.ofNat 6 (numOf f.b))))) :=
  congrArg Host.Outcome.next (archGate_below false (opd f) _ s h)
theorem exec_movfa_movta_above (cls : Bool)
    (h : (if cls then s.wg.fp.sregs else s.wg.fp.vregs) ≤ (sval s.warp f.a).toNat % 2 ^ 32) :
    let trapped := s.raise 0x03 s.warp.exec (BitVec.ofNat 64 ((sval s.warp f.a).toNat % 2 ^ 32))
    exec (.movfa f cls) s = .next trapped ∧ exec (.movta f cls) s = .next trapped :=
  ⟨congrArg Host.Outcome.next (archGate_above cls (opd f) _ s h),
    congrArg Host.Outcome.next (archGate_above cls (opd f) _ s h)⟩
end

/-- Settles O47: each of the four ends by writing one register, or takes 0x03 at its own check. -/
theorem systemRegisters : Obligations.SystemRegisters := by
  refine ⟨fun f r s => ?_, fun f r s => ⟨fun h => ?_, fun h => exec_sysw_illegal f r s h⟩, fun f s =>
    ⟨fun h => ⟨?_, ?_⟩, fun h => ⟨?_, ?_⟩, fun cls h => exec_movfa_movta_above f s cls h⟩⟩
  · exact ⟨_, _, exec_sysr f r s, done_writeS_spec (opd f) _ s⟩
  · obtain ⟨hpc, hstint, hnotice, hrob⟩ := sysWritten_fields s.warp s.width r (sval s.warp f.a)
    exact ⟨_, exec_sysw_legal f r s h, done_completes _ _ s hpc hstint hnotice hrob⟩
  · exact ⟨_, _, exec_movfa_scalar f s h, done_writeS_spec (opd f) _ s⟩
  · obtain ⟨hcompletes, hframe⟩ := done_setArchS_spec (opd f) _ _ s
    exact ⟨_, _, exec_movta_scalar f s h, hcompletes, hframe, fun j => archS_setArchS _ _ j _⟩
  · exact ⟨_, _, exec_movfa_vector f s h, done_writeV_spec (opd f) _ s⟩
  · obtain ⟨hcompletes, hframe⟩ := done_setArchV_spec (opd f) _ _ s
    exact ⟨_, _, exec_movta_vector f s h, hcompletes, hframe, fun j => archV_setArchV _ _ j _⟩

end Sys2Proof.Machine
end
